-- ==== Sys2Proof/Word.lean ====
section
/-! DEFINITION. The one datum of the machine, the Word (spec 00_scope R3), and the byte of its host streams. -/

namespace Sys2Proof

/-- "An unsigned 64-bit integer; the machine's only datum type" (R3). `+` and `-` on it are the spec's `+64` and `-64` (R12). -/
abbrev Word := BitVec 64

/-- One byte of the host's In and Out streams (R20). No instruction sees a byte. -/
abbrev Byte := BitVec 8

end Sys2Proof
end

