-- ==== Sys2Proof/Syntax.lean ====
section
/-! DEFINITION. The closed enumeration of the 18 instructions (spec 00_scope R2, opcode_table.json), in its order.
An instruction has no field: its registers are fixed by its opcode (10_state R21), and the operand word of a two-word instruction is
not part of what is decoded; the instruction's own execution fetches it (30_encoding R86, 40_system R120). Log entry 27. -/

namespace Sys2Proof

/-- One constructor per mnemonic of spec 00_scope R2 and no others. -/
inductive Instr where
  | halt | noop | inca | deca | seta | seti | deci | jinz | mvay
  | adxy | mvax | mvya | outa | jump | inci | ldai | cmpi | jneq
  deriving DecidableEq, Repr

/-- The enumeration of R2 as a list, in the spec's order. -/
def Instr.all : List Instr :=
  [.halt, .noop, .inca, .deca, .seta, .seti, .deci, .jinz, .mvay,
   .adxy, .mvax, .mvya, .outa, .jump, .inci, .ldai, .cmpi, .jneq]

end Sys2Proof
end

