-- ==== Sys2Proof/Config.lean ====
section
/-! DEFINITION. What one machine fixes (MEMSIZE and OPVAL, spec 00_scope R8, R9) and the free values: what the spec leaves open about
the host's byte stream. The default numbers stand in Decode.lean. -/

namespace Sys2Proof

/-- OPVAL (R9): the opcode Word of each mnemonic, as plain data, one field per instruction in the order of R2. -/
structure OpVal where
  halt : Word
  noop : Word
  inca : Word
  deca : Word
  seta : Word
  seti : Word
  deci : Word
  jinz : Word
  mvay : Word
  adxy : Word
  mvax : Word
  mvya : Word
  outa : Word
  jump : Word
  inci : Word
  ldai : Word
  cmpi : Word
  jneq : Word
  deriving DecidableEq, Repr

/-- OPVAL read as the map it is: mnemonic to Word. -/
def OpVal.value (v : OpVal) : Instr → Word
  | .halt => v.halt
  | .noop => v.noop
  | .inca => v.inca
  | .deca => v.deca
  | .seta => v.seta
  | .seti => v.seti
  | .deci => v.deci
  | .jinz => v.jinz
  | .mvay => v.mvay
  | .adxy => v.adxy
  | .mvax => v.mvax
  | .mvya => v.mvya
  | .outa => v.outa
  | .jump => v.jump
  | .inci => v.inci
  | .ldai => v.ldai
  | .cmpi => v.cmpi
  | .jneq => v.jneq

/-- The parameters of one Machine instance: `memSize` is MEMSIZE (R8, fixed at Create, 70_reset R211), `opval` is OPVAL (R9). -/
structure Config where
  memSize : Nat
  opval   : OpVal
  deriving DecidableEq, Repr

/-- FREE VALUE (log entry 13). The bytes the host's stream receives for an output Word that is a Unicode code point above 127: the part
of OUT_ENCODE the spec leaves open (00_scope R10, 40_system R125, 93 U3). No statement may rest on its value. -/
opaque Config.outEncodeChar : Word → List Byte

/-- FREE VALUE (log entry 13). The bytes for the output Word at one position of OUT when it is no Unicode code point: any value, a
draw of its own at each position (93 U4). No statement may rest on its value. -/
opaque Config.outEncodeDraw : Nat → Word → List Byte

/-- What one snapshot line of the debug mode shows (60_exceptions R200, R201): the registers and the flag, the mnemonic decoded from
`Memory[P]`, and `Memory[P+1]` where NEEDS_ARG asks for it. -/
structure SnapshotLine where
  pc      : Word
  a       : Word
  i       : Word
  x       : Word
  y       : Word
  z       : Bool
  /-- `Memory[P]`, on which the text may depend where it is no opcode (91 N8); none outside memory. -/
  word    : Option Word
  /-- The instruction `Memory[P]` decodes to; none where there is none. -/
  next    : Option Instr
  /-- `Memory[P+1]` where that instruction requires an operand; none where it does not, or outside memory. -/
  operand : Option Word
  deriving DecidableEq, Repr

/-- FREE VALUE (log entry 20). The text of the n-th snapshot line of the debug mode, a function of what the line shows: the spec does
not give its form (60 R200, 91 N8). No statement may rest on its value. -/
opaque Config.snapshotText : Nat → SnapshotLine → List Byte

end Sys2Proof
end

