-- ==== Sys2Proof/WellFormed.lean ====
section
/-! DEFINITION. Which configurations, instructions with operand, and programs are well formed (spec 00_scope R8, R9, R17;
30_encoding R82). Each check is decidable. -/

namespace Sys2Proof

/-- Format OPW (30_encoding R82): the instruction has an operand word. The other eleven are format OP (R81). -/
def Instr.takesOperand : Instr → Bool
  | .seta | .seti | .jinz | .jump | .ldai | .cmpi | .jneq => true
  | .halt | .noop | .inca | .deca | .deci | .mvay | .adxy | .mvax | .mvya | .outa | .inci => false

/-- An instruction with the operand word that follows it in memory (R80: "literal/operand words interleaved positionally immediately
after their owning instruction"). -/
structure Code where
  op      : Instr
  operand : Option Word
  deriving DecidableEq, Repr

/-- An operand word is there exactly when the format is OPW (R81, R82). -/
abbrev Code.Wf (c : Code) : Prop := c.operand.isSome = c.op.takesOperand

/-- The bounds on MEMSIZE (R8, decision D3) and the injectivity of OPVAL (R9). -/
abbrev Config.Wf (c : Config) : Prop :=
  1 ≤ c.memSize ∧ c.memSize ≤ 2 ^ 64 - 2 ∧ (Instr.all.map c.opval.value).Nodup

/-- A program is "an ordered sequence of Words" (R17), no longer than memory (R17, 30_encoding R91). -/
abbrev Program := List Word

abbrev Program.Fits (p : Program) (c : Config) : Prop := p.length ≤ c.memSize

end Sys2Proof
end

