-- ==== Sys2Proof/Decode.lean ====
section
/-! DEFINITION. The instruction decoder and the encoder (spec 30_encoding R80 to R91), the spec's default configuration (R8, R84), and
the software table NEEDS_ARG (R85). -/

namespace Sys2Proof

/-- The default OPVAL (R84): the zero-based position of each name in the enumeration of R2. The numbers are the spec's decision D1, not
the source's (log entry 3). -/
def OpVal.default : OpVal where
  halt := 0
  noop := 1
  inca := 2
  deca := 3
  seta := 4
  seti := 5
  deci := 6
  jinz := 7
  mvay := 8
  adxy := 9
  mvax := 10
  mvya := 11
  outa := 12
  jump := 13
  inci := 14
  ldai := 15
  cmpi := 16
  jneq := 17

/-- The default machine: 1024 Words (R8) and the default OPVAL. -/
def Config.default : Config where
  memSize := 1024
  opval := OpVal.default

/-- NEEDS_ARG (R85): read by the assembler's arity check and the debug renderer only, never by the core. -/
def Instr.needsArg : Instr → Bool
  | .seta | .seti | .jump | .jneq => true
  | .halt | .noop | .inca | .deca | .deci | .jinz | .mvay | .adxy | .mvax | .mvya | .outa | .inci | .ldai | .cmpi => false

/-- The number of Words of an instruction, decided by its opcode alone (R87). -/
def Instr.length (i : Instr) : Nat := if i.takesOperand then 2 else 1

/-- `decode : Word -> Option Mnemonic` (R86): all 64 bits are compared, and nothing but the opcode word is read. -/
def Config.decode (c : Config) (w : Word) : Option Instr :=
  Instr.all.find? fun i => c.opval.value i == w

/-- Why a sequence of Words does not begin with an instruction. -/
inductive DecodeReject where
  /-- There is no word at all. -/
  | noWord
  /-- The first word is no opcode (R88). -/
  | unknownOpcode (w : Word)
  /-- The first word is an OPW opcode and no operand word follows. -/
  | missingOperand (i : Instr)
  deriving DecidableEq, Repr

/-- What reading one instruction off a sequence of Words gives. -/
inductive DecodeResult where
  | code (c : Code) (rest : List Word)
  | rejected (why : DecodeReject)
  deriving DecidableEq, Repr

/-- Reads one whole instruction, operand included, off the front of a sequence of Words (R80 to R83, R89). The core never does this
(it decodes the opcode word and lets the execution fetch the operand); it is the reading of a program image. -/
def Config.decodeCode (c : Config) : List Word → DecodeResult
  | [] => .rejected .noWord
  | w :: rest =>
    match c.decode w with
    | none => .rejected (.unknownOpcode w)
    | some i =>
      if i.takesOperand then
        match rest with
        | [] => .rejected (.missingOperand i)
        | k :: rest => .code ⟨i, some k⟩ rest
      else .code ⟨i, none⟩ rest

/-- The Words of an instruction (R81, R82): the opcode value, then the operand word. -/
def Config.encode (c : Config) (k : Code) : List Word :=
  c.opval.value k.op :: k.operand.toList

/-- The two words of an instruction given as one number whose bit 0 is the least significant bit of the first word; bits from `nbits`
up are 0 (R12, R82). -/
def tableWords (nbits w : Nat) : List Word :=
  [BitVec.ofNat 64 (w % 2 ^ nbits), BitVec.ofNat 64 (w % 2 ^ nbits / 2 ^ 64)]

/-- The instruction the decoder reads from such a number, under the default configuration. -/
def decodeTableWord (nbits w : Nat) : Option Instr :=
  match Config.default.decodeCode (tableWords nbits w) with
  | .code k _ => some k.op
  | .rejected _ => none

end Sys2Proof
end

