-- ==== Sys2Proof/Machine/State.lean ====
section
/-! DEFINITION. The Machine record (spec 10_state R20), the run status (R39), memory as plain data, and the state after Create (R45). -/

namespace Sys2Proof.Machine

/-- The four general registers (10_state R21). -/
inductive Reg where
  | A | I | X | Y
  deriving DecidableEq, Repr

/-- The two execution errors (60_exceptions R180). -/
inductive Cause where
  | unknownOpcode
  | outOfRange
  deriving DecidableEq, Repr

/-- The run status (10_state R39). `failed` carries the cause and its info Word (60_exceptions R181, R182). -/
inductive Status where
  | idle
  | running
  | halted
  | failed (cause : Cause) (info : Word)
  deriving DecidableEq, Repr

/-- MEM as the list of its non-zero Words, each with its word address (10_state R38). The unit is the spec's smallest addressable unit,
the 64-bit Word (20_memory R51, R58): log entry 1. -/
abbrev Memory := List (Nat × Word)

/-- What an address with no entry reads as: 0, "zeroed memory" (10_state R45). -/
def Memory.unlisted : Word := 0

/-- The canonical form: addresses strictly rising, and no entry equal to what an unlisted address reads as. -/
abbrev Memory.wf (m : Memory) : Prop :=
  m.Pairwise (fun p q => p.1 < q.1) ∧ ∀ p ∈ m, p.2 ≠ Memory.unlisted

/-- One snapshot line written to the output stream (60_exceptions R200): what it shows, and how many Words of OUT stand before it. -/
structure Snapshot extends SnapshotLine where
  outPos : Nat
  deriving DecidableEq, Repr

/-- The whole state of the machine (10_state R20, R39; R48: nothing is hidden). -/
structure State where
  /-- MEMSIZE and OPVAL of this Machine instance, fixed at Create (70_reset R211). -/
  cfg       : Config
  /-- MEM (R38). -/
  mem       : Memory
  /-- x[A] (R22). -/
  a         : Word
  /-- x[I] (R23). -/
  i         : Word
  /-- x[X] (R24). -/
  x         : Word
  /-- x[Y] (R25). -/
  y         : Word
  /-- The program counter P, a word address (R30). -/
  pc        : Word
  /-- The comparison flag Z (R35). -/
  z         : Bool
  /-- The run status (R39). -/
  status    : Status
  /-- OUT, oldest Word first (R40). -/
  out       : List Word
  /-- IN: the bytes not read yet (R41). Only the debug mode reads it. -/
  inp       : List Byte
  /-- The host has closed IN: no byte will follow `inp` (60_exceptions R190). -/
  inpClosed : Bool
  /-- The Debug switch (R42). -/
  debug     : Bool
  /-- The snapshot lines written to the output stream so far, oldest first (60_exceptions R200). -/
  snaps     : List Snapshot
  /-- The snapshot of the next fetch is written and its input line not read yet: the hold of 60_exceptions R202. -/
  hold      : Bool
  deriving DecidableEq, Repr

/-- Reasons to stop with a fault: NONE. Both execution errors end a run in a STATE the spec describes (status FAILED, 60_exceptions
R186, R187), so they are next states; log entry 5. Safe: nothing is hidden by a stop. -/
inductive Fault where
  deriving DecidableEq, Repr

/-- Reasons the model gives a step no meaning. -/
inductive Refusal where
  /-- Raised by `exec`'s arm of an instruction that has no meaning yet; no arm does. Safe. -/
  | notModelled (mnemonic : String)
  /-- Raised by the debug gate, in debug mode only, when IN has ended before a whole line: the spec does not say what happens
  (91 N8, 93 U11); log entry 19. Safe. -/
  | debugInputEnded
  deriving DecidableEq, Repr

/-- The machine right after Create with the default parameters (10_state R45, 70_reset R210). -/
def State.reset : State where
  cfg := Config.default
  mem := []
  a := 0
  i := 0
  x := 0
  y := 0
  pc := 0
  z := false
  status := .idle
  out := []
  inp := []
  inpClosed := false
  debug := false
  snaps := []
  hold := false

end Sys2Proof.Machine
end

