-- ==== Sys2Proof/Machine/Ops.lean ====
section
/-! DEFINITION. The named operations of the spec's pseudocode (00_scope R13) over memory, registers, program counter and output, and the
taking of an execution error (60_exceptions R186). There is no return from one (60_exceptions R188). -/

namespace Sys2Proof.Machine

/-- What executing something answers. -/
abbrev Result := Host.Outcome State Fault Refusal

/-- The Word at an address. -/
def Memory.read : Memory → Nat → Word
  | [], _ => Memory.unlisted
  | (b, w) :: m, a => if a = b then w else Memory.read m a

/-- Memory with one Word changed, in canonical form again. -/
def Memory.write : Memory → Nat → Word → Memory
  | [], a, v => if v = Memory.unlisted then [] else [(a, v)]
  | (b, w) :: m, a, v =>
    if a < b then (if v = Memory.unlisted then (b, w) :: m else (a, v) :: (b, w) :: m)
    else if a = b then (if v = Memory.unlisted then m else (a, v) :: m)
    else (b, w) :: Memory.write m a v

/-- x[r] (R13). -/
def State.reg (s : State) : Reg → Word
  | .A => s.a
  | .I => s.i
  | .X => s.x
  | .Y => s.y

/-- x[r] <- v (R13). -/
def State.setReg (s : State) (r : Reg) (v : Word) : State :=
  match r with
  | .A => { s with a := v }
  | .I => { s with i := v }
  | .X => { s with x := v }
  | .Y => { s with y := v }

/-- pc <- v (R13): any Word, no check (10_state R33). -/
def State.setPc (s : State) (v : Word) : State := { s with pc := v }

/-- pc <- pc +64 1. -/
def State.advance (s : State) : State := s.setPc (s.pc + 1)

/-- Z <- b (R13). -/
def State.setZ (s : State) (b : Bool) : State := { s with z := b }

/-- status <- st. -/
def State.setStatus (s : State) (st : Status) : State := { s with status := st }

/-- Out(v): OUT <- OUT ++ [v] (R13, 10_state R40). -/
def State.emit (s : State) (v : Word) : State := { s with out := s.out ++ [v] }

/-- TAKING AN EXCEPTION (60_exceptions R186): `raise Cause(info)` sets status to FAILED(cause, info) and changes nothing else; what the
step did before it stays ("no rollback"). -/
def State.raise (s : State) (c : Cause) (info : Word) : State := s.setStatus (.failed c info)

/-- MemRead(a, 1) (20_memory R53): the Word, or none where the read raises OutOfRange(a). The comparison is unsigned on the full address. -/
def State.memRead (s : State) (a : Word) : Option Word :=
  if a.toNat < s.cfg.memSize then some (Memory.read s.mem a.toNat) else none

/-- MemRead(a, 1) followed by the rest of an instruction: the rest runs on the Word read, or OutOfRange(a) is raised (20_memory R53). -/
def State.withRead (s : State) (a : Word) (rest : Word → Result) : Result :=
  match s.memRead a with
  | some w => rest w
  | none => .next (s.raise .outOfRange a)

/-- Fetch() followed by the rest of an instruction (20_memory R54): the read comes first, so a failed fetch leaves pc (decision D5). -/
def State.withFetch (s : State) (rest : Word → State → Result) : Result :=
  s.withRead s.pc fun w => rest w s.advance

/-- MemWrite(a, 1, v) (20_memory R56), for the host's operations only; outside memory it writes nothing. -/
def State.memWrite (s : State) (a : Nat) (v : Word) : State :=
  if a < s.cfg.memSize then { s with mem := Memory.write s.mem a v } else s

/-- MemWrite of consecutive Words, from an address upward. -/
def State.writeWords : State → Nat → List Word → State
  | s, _, [] => s
  | s, a, w :: ws => State.writeWords (s.memWrite a w) (a + 1) ws

/-- The given Words placed from pc upward, in a machine that is running with the debug mode (and so its hold) off: what Load and Run do for
a program of one instruction, at the pc as it stands (70_reset R212, R215; log entry 7). -/
def State.placeAtPc (s : State) (ws : List Word) : State :=
  { s.writeWords s.pc.toNat ws with status := .running, debug := false, hold := false }

end Sys2Proof.Machine
end

