-- ==== Sys2Proof/Machine/Debug.lean ====
section
/-! DEFINITION. The debug mode (spec 10_state R41, R42; 60_exceptions R200 to R202): the snapshot written and the input line read before
each opcode fetch. The spec leaves the mode out of its block and does not give the snapshot's text; the model follows what R42, R200 and
R201 do say and leaves the text a free function of what the line shows (log entries 17 to 20). With Debug false nothing here changes anything. -/

namespace Sys2Proof.Machine

/-- The mnemonic that the snapshot renders: that of `Memory[P]` (R201), none where there is none to render. -/
def State.peekNext (s : State) : Option Instr := (s.memRead s.pc).bind s.cfg.decode

/-- `Memory[P+1]`, peeked at "if that opcode requires an operand", by the table NEEDS_ARG (R201, 30_encoding R85). -/
def State.peekOperand (s : State) : Option Word :=
  match s.peekNext with
  | some i => if i.needsArg then s.memRead (s.pc + 1) else none
  | none => none

/-- The one-line state snapshot of R200. -/
def State.snapshot (s : State) : Snapshot where
  pc := s.pc
  a := s.a
  i := s.i
  x := s.x
  y := s.y
  z := s.z
  word := s.memRead s.pc
  next := s.peekNext
  operand := s.peekOperand
  outPos := s.out.length

/-- The snapshot written once for this fetch; the machine then holds until a line arrives (R200, R202). -/
def State.renderSnapshot (s : State) : State :=
  if s.hold then s else { s with snaps := s.snaps ++ [s.snapshot], hold := true }

/-- The byte that ends a line of IN: line feed (PRESUMED, log entry 18). -/
def lineEnd : Byte := 10

/-- What is left of IN after one whole line, or none where no whole line is there. -/
def takeLine : List Byte → Option (List Byte)
  | [] => none
  | b :: bs => if b = lineEnd then some bs else takeLine bs

/-- The hold is released, with `rest` what is left of IN: a line has been read, or the strobe of the hardware handshake came (R202). -/
def State.release (s : State) (rest : List Byte) : State := { s with inp := rest, hold := false }

/-- What happens before an opcode fetch: go on with it, keep waiting for a line, or IN has ended. -/
inductive Gate where
  | proceed (s : State)
  | wait (s : State)
  | ended
  deriving DecidableEq, Repr

/-- Before each opcode fetch (R200). With Debug false: straight on. With Debug true: the snapshot, then one line of IN, without which
the machine waits; where IN has ended the spec says nothing (91 N8). -/
def State.debugGate (s : State) : Gate :=
  if s.debug then
    match takeLine s.renderSnapshot.inp with
    | some rest => .proceed (s.renderSnapshot.release rest)
    | none => if s.inpClosed then .ended else .wait s.renderSnapshot
  else .proceed s

end Sys2Proof.Machine
end

