-- ==== Sys2Proof/Machine/Alu.lean ====
section
/-! DEFINITION. The four functions of the ALU (spec 41_arithmetic R130, R131), on full Words, modulo 2^64. -/

namespace Sys2Proof.Machine

/-- `inc(a) = a +64 1`. -/
def aluInc (a : Word) : Word := a + 1

/-- `dec(a) = a -64 1`. -/
def aluDec (a : Word) : Word := a - 1

/-- `add(a, b) = a +64 b`. -/
def aluAdd (a b : Word) : Word := a + b

/-- `eq(a, b) = (a == b)`: all 64 bits. -/
def aluEq (a b : Word) : Bool := a == b

end Sys2Proof.Machine
end

