-- ==== Sys2Proof/Machine/Operands.lean ====
section
/-! DEFINITION. The operand forms: the operand word of format OPW (spec 30_encoding R82, R83), the operand word stepped over (43 R161,
R165), the indexed address of LDAI (44_load R170, R172), the jump target (43 R160). -/

namespace Sys2Proof.Machine

/-- `k <- Fetch()`, then the rest of the instruction: the operand is the whole Word (R83). -/
def State.withOperand (s : State) (rest : Word → State → Result) : Result := s.withFetch rest

/-- Step over the operand word: `pc <- pc +64 1`, no memory access (decision D7). -/
def State.skipOperand (s : State) : State := s.advance

/-- `ea = x[I] +64 k`: the sum wraps before the range check (R170, R172, decision D8). -/
def State.indexedAddr (s : State) (k : Word) : Word := aluAdd (s.reg .I) k

/-- `k <- Fetch(); pc <- k`: an absolute word address, not checked when it is written (43 R160). -/
def State.jumpToOperand (s : State) : Result := s.withOperand fun k t => .next (t.setPc k)

/-- The conditional jump of JINZ and JNEQ: taken, the operand is the target; not taken, it is stepped over unread (R161, R165). -/
def State.branch (s : State) (taken : Bool) : Result :=
  if taken then s.jumpToOperand else .next s.skipOperand

end Sys2Proof.Machine
end

