-- ==== Sys2Proof/Machine/Flags.lean ====
section
/-! DEFINITION. The one flag, Z (spec 10_state R35 to R37): CMPI computes and writes it, JNEQ tests it; no other instruction touches it.
Wrap-around sets no flag (R37). -/

namespace Sys2Proof.Machine

/-- `Z <- (x[r] == k)` (41_arithmetic R138). -/
def State.compare (s : State) (r : Reg) (k : Word) : State := s.setZ (aluEq (s.reg r) k)

/-- The condition of JNEQ: `Z == false` (43_control_transfer R165). -/
def State.notEqual (s : State) : Bool := !s.z

/-- The condition of JINZ: `x[I] != 0` (43_control_transfer R161). It is no flag: the register itself is tested (10_state R36). -/
def State.indexNotZero (s : State) : Bool := s.reg .I != 0

end Sys2Proof.Machine
end

