-- ==== Sys2Proof/Machine/Arithmetic.lean ====
section
/-! DEFINITION. INCA, DECA, DECI, INCI, ADXY, CMPI (spec 41_arithmetic). -/

namespace Sys2Proof.Machine

/-- R132: `x[A] <- x[A] +64 1`. -/
def execInca (s : State) : Result := .next (s.setReg .A (aluInc (s.reg .A)))

/-- R133: `x[A] <- x[A] -64 1`. -/
def execDeca (s : State) : Result := .next (s.setReg .A (aluDec (s.reg .A)))

/-- R134: `x[I] <- x[I] -64 1`. -/
def execDeci (s : State) : Result := .next (s.setReg .I (aluDec (s.reg .I)))

/-- R135: `x[I] <- x[I] +64 1`. -/
def execInci (s : State) : Result := .next (s.setReg .I (aluInc (s.reg .I)))

/-- R136: `x[Y] <- x[Y] +64 x[X]`. -/
def execAdxy (s : State) : Result := .next (s.setReg .Y (aluAdd (s.reg .Y) (s.reg .X)))

/-- R138: `k <- Fetch(); Z <- (x[I] == k)`. -/
def execCmpi (s : State) : Result := s.withOperand fun k t => .next (t.compare .I k)

end Sys2Proof.Machine
end

