-- ==== Sys2Proof/Machine/Control.lean ====
section
/-! DEFINITION. JINZ, JUMP, JNEQ (spec 43_control_transfer). -/

namespace Sys2Proof.Machine

/-- R161: `if x[I] != 0 then k <- Fetch(); pc <- k else pc <- pc +64 1`. -/
def execJinz (s : State) : Result := s.branch s.indexNotZero

/-- R163: `k <- Fetch(); pc <- k`. -/
def execJump (s : State) : Result := s.jumpToOperand

/-- R165: `if Z == false then k <- Fetch(); pc <- k else pc <- pc +64 1`. -/
def execJneq (s : State) : Result := s.branch s.notEqual

end Sys2Proof.Machine
end

