-- ==== Sys2Proof/Machine/Load.lean ====
section
/-! DEFINITION. LDAI, the one instruction that reads data memory (spec 44_load). -/

namespace Sys2Proof.Machine

/-- R171: `k <- Fetch(); ea <- x[I] +64 k; v <- MemRead(ea, 1); x[A] <- v`. -/
def execLdai (s : State) : Result :=
  s.withOperand fun k t => t.withRead (t.indexedAddr k) fun v => .next (t.setReg .A v)

end Sys2Proof.Machine
end

