-- ==== Sys2Proof/Machine/Moves.lean ====
section
/-! DEFINITION. SETA, SETI, MVAY, MVAX, MVYA (spec 42_moves). -/

namespace Sys2Proof.Machine

/-- R151: `k <- Fetch(); x[A] <- k`. -/
def execSeta (s : State) : Result := s.withOperand fun k t => .next (t.setReg .A k)

/-- R152: `k <- Fetch(); x[I] <- k`. -/
def execSeti (s : State) : Result := s.withOperand fun k t => .next (t.setReg .I k)

/-- R153: `x[Y] <- x[A]`. -/
def execMvay (s : State) : Result := .next (s.setReg .Y (s.reg .A))

/-- R154: `x[X] <- x[A]`. -/
def execMvax (s : State) : Result := .next (s.setReg .X (s.reg .A))

/-- R155: `x[A] <- x[Y]`. -/
def execMvya (s : State) : Result := .next (s.setReg .A (s.reg .Y))

end Sys2Proof.Machine
end

