-- ==== Sys2Proof/Machine/System.lean ====
section
/-! DEFINITION. HALT, NOOP, OUTA (spec 40_system). What runs after the opcode word has been fetched and decoded. -/

namespace Sys2Proof.Machine

/-- R121: `status <- HALTED`. -/
def execHalt (s : State) : Result := .next (s.setStatus .halted)

/-- R122: nothing. -/
def execNoop (s : State) : Result := .next s

/-- R124: `Out(x[A])`, the whole Word (R125). -/
def execOuta (s : State) : Result := .next (s.emit (s.reg .A))

end Sys2Proof.Machine
end

