-- ==== Sys2Proof/Machine/Dispatch.lean ====
section
/-! DEFINITION. Execute(m) of spec 40_system R120: one arm per instruction, each one call of its meaning. -/

namespace Sys2Proof.Machine

def exec (i : Instr) (s : State) : Host.Outcome State Fault Refusal :=
  match i with
  | .halt => Sys2Proof.Machine.execHalt s
  | .noop => Sys2Proof.Machine.execNoop s
  | .inca => Sys2Proof.Machine.execInca s
  | .deca => Sys2Proof.Machine.execDeca s
  | .seta => Sys2Proof.Machine.execSeta s
  | .seti => Sys2Proof.Machine.execSeti s
  | .deci => Sys2Proof.Machine.execDeci s
  | .jinz => Sys2Proof.Machine.execJinz s
  | .mvay => Sys2Proof.Machine.execMvay s
  | .adxy => Sys2Proof.Machine.execAdxy s
  | .mvax => Sys2Proof.Machine.execMvax s
  | .mvya => Sys2Proof.Machine.execMvya s
  | .outa => Sys2Proof.Machine.execOuta s
  | .jump => Sys2Proof.Machine.execJump s
  | .inci => Sys2Proof.Machine.execInci s
  | .ldai => Sys2Proof.Machine.execLdai s
  | .cmpi => Sys2Proof.Machine.execCmpi s
  | .jneq => Sys2Proof.Machine.execJneq s

end Sys2Proof.Machine
end

