-- ==== Sys2Proof/Machine/Cycle.lean ====
section
/-! DEFINITION. The instruction cycle (spec 40_system R120) and one turn of the run loop around it (70_reset R216). -/

namespace Sys2Proof.Machine

/-- `Step()` of R120: fetch the opcode word, decode it, execute; an unknown opcode is raised after the fetch has moved pc
(60_exceptions R181). -/
def State.cycle (s : State) : Result :=
  s.withFetch fun w t =>
    match t.cfg.decode w with
    | some i => exec i t
    | none => .next (t.raise .unknownOpcode w)

/-- One turn of `while status == RUNNING do Step()` (70_reset R216), with the debug mode's hold before the fetch (60_exceptions R200).
A machine that is not running performs no Step and stays as it is (40_system R120, 10_state R47; log entry 6). -/
def State.iterate (s : State) : Result :=
  if s.status = .running then
    match s.debugGate with
    | .proceed t => t.cycle
    | .wait t => .next t
    | .ended => .refused .debugInputEnded
  else .next s

end Sys2Proof.Machine
end

