-- ==== Sys2Proof/Machine/Step.lean ====
section
/-! DEFINITION. One step of the machine (spec 00_scope R14: one instruction, atomic), and the state with a given instruction placed to run
next. -/

namespace Sys2Proof.Machine

/-- One step: one turn of the run loop. -/
def step : State → Host.Outcome State Fault Refusal := fun s => s.iterate

/-- `s` with the instruction whose bits are `w` stored at its pc, running, the debug mode off: what Load and Run do before its first
fetch (log entry 7). -/
def State.withFetchWord (s : State) (nbits w : Nat) : State := s.placeAtPc (tableWords nbits w)

end Sys2Proof.Machine
end

