-- ==== Sys2Proof/Machine/Lexer.lean ====
section
/-! DEFINITION. The lexer of the toolchain (spec 30_encoding R100, R101, R103 to R109). It is software outside the block (00_scope R6); the
spec gives its state machine, and the model follows it; what the spec leaves open is an error of its own name (log entry 22). -/

namespace Sys2Proof.Toolchain

/-- The states of R103, and the place inside `InToken` where one `/` has been read and the next character decides (R105). -/
inductive LexMode where
  | wantToken
  | inToken
  | inSlash
  | inRuneLiteral
  | inComment
  deriving DecidableEq, Repr

/-- The kinds of R108; an instruction token carries the instruction whose opcode is its value. -/
inductive TokenKind where
  | instruction (i : Instr)
  | comment
  | numberLiteral
  | runeLiteral
  deriving DecidableEq, Repr

/-- The token record of R108 but for the column, which is best-effort and not required for correctness (93 U12). -/
structure Token where
  kind  : TokenKind
  value : Word
  raw   : List Char
  line  : Nat
  deriving DecidableEq, Repr

/-- The errors of R111, each with its line. -/
inductive ToolError where
  /-- `/` not followed by `/` (R105). -/
  | malformedComment (line : Nat)
  /-- End of input before a closing quote (R106). -/
  | unterminatedRune (line : Nat)
  /-- "unknown instruction <text>" (R108, R109). -/
  | unknownInstruction (raw : List Char) (line : Nat)
  /-- "unexpected instruction <raw>" (R110). -/
  | unexpectedInstruction (raw : List Char) (line : Nat)
  /-- `//` straight after a lexeme: the spec does not say which lexeme it belongs to (91 N15, 93 U16). -/
  | commentInsideToken (line : Nat)
  deriving DecidableEq, Repr

/-- The mnemonics are the 18 opcode names (R101). -/
def mnemonic : Instr → List Char
  | .halt => ['H', 'A', 'L', 'T']
  | .noop => ['N', 'O', 'O', 'P']
  | .inca => ['I', 'N', 'C', 'A']
  | .deca => ['D', 'E', 'C', 'A']
  | .seta => ['S', 'E', 'T', 'A']
  | .seti => ['S', 'E', 'T', 'I']
  | .deci => ['D', 'E', 'C', 'I']
  | .jinz => ['J', 'I', 'N', 'Z']
  | .mvay => ['M', 'V', 'A', 'Y']
  | .adxy => ['A', 'D', 'X', 'Y']
  | .mvax => ['M', 'V', 'A', 'X']
  | .mvya => ['M', 'V', 'Y', 'A']
  | .outa => ['O', 'U', 'T', 'A']
  | .jump => ['J', 'U', 'M', 'P']
  | .inci => ['I', 'N', 'C', 'I']
  | .ldai => ['L', 'D', 'A', 'I']
  | .cmpi => ['C', 'M', 'P', 'I']
  | .jneq => ['J', 'N', 'E', 'Q']

/-- The raw text upper-cased and looked up in the mnemonic table (R108). -/
def lookupMnemonic (raw : List Char) : Option Instr :=
  Instr.all.find? fun i => mnemonic i == raw.map Char.toUpper

/-- The value of a sequence of base-10 digits, most significant first; none where a character is no digit. -/
def digitsValue : Nat → List Char → Option Nat
  | n, [] => some n
  | n, ch :: rest => if ch.isDigit then digitsValue (n * 10 + (ch.toNat - 48)) rest else none

/-- A number literal: a base-10 integer `0 .. 2^64 - 1`, no sign (R109, decision D17). -/
def numberValue (raw : List Char) : Option Word :=
  match raw with
  | [] => none
  | _ :: _ =>
    match digitsValue 0 raw with
    | some n => if n < 2 ^ 64 then some (BitVec.ofNat 64 n) else none
    | none => none

/-- A rune literal: exactly three characters, the first and last single quotes (R108). -/
def runeValue (raw : List Char) : Option Word :=
  match raw with
  | [q, ch, q'] => if q = '\'' ∧ q' = '\'' then some (BitVec.ofNat 64 ch.toNat) else none
  | _ => none

/-- A comment's raw text begins with `//` (R108). -/
def isComment (raw : List Char) : Bool := ['/', '/'].isPrefixOf raw

/-- Lexeme to token, in the order of R108: comment, mnemonic, rune literal, number literal. A comment token's value is "irrelevant" to the
spec; that it is 0 here is the model's own (DESIGN CHOICE, log entry 22), and nothing reads it. -/
def classify (c : Config) (raw : List Char) (start line : Nat) : Except ToolError Token :=
  if isComment raw then .ok ⟨.comment, 0, raw, start⟩
  else
    match lookupMnemonic raw with
    | some i => .ok ⟨.instruction i, c.opval.value i, raw, start⟩
    | none =>
      match runeValue raw with
      | some v => .ok ⟨.runeLiteral, v, raw, start⟩
      | none =>
        match numberValue raw with
        | some v => .ok ⟨.numberLiteral, v, raw, start⟩
        | none => .error (.unknownInstruction raw line)

/-- The scanner between two characters: its mode, the line it stands on, the line the lexeme began on, the lexeme so far (last character
first) and the tokens emitted (last first). -/
structure LexState where
  mode  : LexMode
  line  : Nat
  start : Nat
  text  : List Char
  toks  : List Token
  deriving DecidableEq, Repr

/-- R103: the initial state is `WantToken`; lines count from 1 (R108). -/
def LexState.initial : LexState := ⟨.wantToken, 1, 1, [], []⟩

/-- One more character of the lexeme. -/
def LexState.accumulate (s : LexState) (ch : Char) : LexState := { s with text := ch :: s.text }

/-- Emits the accumulated lexeme as a token and wants the next. -/
def LexState.emit (c : Config) (s : LexState) : Except ToolError LexState :=
  match classify c s.text.reverse s.start s.line with
  | .ok t => .ok { s with mode := .wantToken, text := [], toks := t :: s.toks }
  | .error e => .error e

/-- A separator in `WantToken` (R104): newline counts a line; space and `;` are skipped. -/
def LexState.skip (s : LexState) (ch : Char) : LexState :=
  if ch = '\n' then { s with line := s.line + 1 } else s

/-- The three separators the spec names (R104); a tab or a carriage return is none (91 N14). -/
def isSeparator (ch : Char) : Bool := ch = '\n' || ch = ' ' || ch = ';'

/-- `InToken` (R105). A separator is backed up over, so `WantToken` sees it next. -/
def LexState.inTokenStep (c : Config) (s : LexState) (ch : Char) : Except ToolError LexState :=
  if ch = '/' then .ok { s with mode := .inSlash }
  else if isSeparator ch then
    match s.emit c with
    | .ok t => .ok (t.skip ch)
    | .error e => .error e
  else if ch = '\'' then .ok { s.accumulate ch with mode := .inRuneLiteral }
  else .ok { s.accumulate ch with mode := .inToken }

/-- One character of the state machine of R103 to R107. -/
def lexStep (c : Config) (s : LexState) (ch : Char) : Except ToolError LexState :=
  match s.mode with
  | .wantToken =>
    if isSeparator ch then .ok (s.skip ch)
    else { s with mode := .inToken, start := s.line, text := [] }.inTokenStep c ch
  | .inToken => s.inTokenStep c ch
  | .inSlash =>
    if ch = '/' then
      if s.text = [] then .ok { s with mode := .inComment, text := ['/', '/'] }
      else .error (.commentInsideToken s.line)
    else .error (.malformedComment s.line)
  | .inRuneLiteral =>
    if ch = '\'' then (s.accumulate ch).emit c
    else if ch = '\n' then .ok { s.accumulate ch with line := s.line + 1 }
    else .ok (s.accumulate ch)
  | .inComment =>
    if ch = '\n' then
      match s.emit c with
      | .ok t => .ok (t.skip ch)
      | .error e => .error e
    else .ok (s.accumulate ch)

/-- The end of the input (R104 to R107): what is still accumulated is emitted, but an open rune literal is an error. -/
def lexEnd (c : Config) (s : LexState) : Except ToolError (List Token) :=
  match s.mode with
  | .wantToken => .ok s.toks.reverse
  | .inToken | .inComment =>
    match s.emit c with
    | .ok t => .ok t.toks.reverse
    | .error e => .error e
  | .inSlash => .error (.malformedComment s.line)
  | .inRuneLiteral => .error (.unterminatedRune s.line)

/-- The scanner over a whole text, from a state. -/
def lexFrom (c : Config) : LexState → List Char → Except ToolError (List Token)
  | s, [] => lexEnd c s
  | s, ch :: rest =>
    match lexStep c s ch with
    | .ok t => lexFrom c t rest
    | .error e => .error e

/-- `Tokenize(source)`. -/
def tokenize (c : Config) (src : List Char) : Except ToolError (List Token) :=
  lexFrom c LexState.initial src

end Sys2Proof.Toolchain
end

