-- ==== Sys2Proof/Machine/Assembler.lean ====
section
/-! DEFINITION. The assembler of the toolchain (spec 30_encoding R102, R110, R113): tokens to Words. Software outside the block. -/

namespace Sys2Proof.Toolchain

/-- R110, with `argumentExpected` as the Boolean argument. Where the tokens end with an argument still expected the algorithm reports
nothing (91 N11). -/
def assembleTokens : Bool → List Token → Except ToolError Program
  | _, [] => .ok []
  | expected, t :: rest =>
    match t.kind with
    | .comment => assembleTokens expected rest
    | .instruction i =>
      if expected then .error (.unexpectedInstruction t.raw t.line)
      else (assembleTokens i.needsArg rest).map (t.value :: ·)
    | .numberLiteral | .runeLiteral => (assembleTokens false rest).map (t.value :: ·)

/-- `Assemble(source)` (R100): source text, tokens, program. -/
def assemble (c : Config) (src : List Char) : Except ToolError Program :=
  match tokenize c src with
  | .ok toks => assembleTokens false toks
  | .error e => .error e

/-- An instruction as the tokens of its assembly syntax (R102): the mnemonic, then its operand as a number literal. -/
def codeTokens (c : Config) (line : Nat) (k : Code) : List Token :=
  ⟨.instruction k.op, c.opval.value k.op, mnemonic k.op, line⟩ ::
    k.operand.toList.map fun w => ⟨.numberLiteral, w, Nat.toDigits 10 w.toNat, line⟩

end Sys2Proof.Toolchain
end

