-- ==== Sys2Proof/Machine/HostOps.lean ====
section
/-! DEFINITION. What the host does to the machine (spec 70_reset R210 to R217, R232; 00_scope R7): Create, Load, Run, the Debug switch, the
input stream, and the bytes it reads back (00_scope R10, 40_system R125). -/

namespace Sys2Proof.Machine

/-- `Create(MEMSIZE, IN, OUT)` (R210, R211): everything zero, false or empty, status IDLE. OPVAL is a parameter of the machine too. -/
def State.create (c : Config) (input : List Byte) : State :=
  { cfg := c, mem := [], a := 0, i := 0, x := 0, y := 0, pc := 0, z := false, status := .idle, out := [],
    inp := input, inpClosed := false, debug := false, snaps := [], hold := false }

/-- What Load answers to the host. -/
inductive LoadResult where
  /-- The program is in memory. -/
  | loaded (s : State)
  /-- `len(program) > MEMSIZE`: the failure is returned to the host, nothing is changed (R213). -/
  | tooLong
  /-- The machine is running: Load is not accepted during a run (R232; log entry 16). -/
  | busy
  deriving DecidableEq, Repr

/-- `Load(program)` (R212, R213). -/
def State.load (s : State) (p : Program) : LoadResult :=
  if s.status = .running then .busy
  else if p.length ≤ s.cfg.memSize then
    .loaded { s.writeWords 0 p with pc := 0, status := .idle }
  else .tooLong

/-- The start of `Run()` (R215): status RUNNING, at the current pc; nothing is reset. -/
def State.startRun (s : State) : State := s.setStatus .running

/-- How a run under a bound on its steps comes out. -/
inductive RunResult where
  /-- The run has ended: the first state whose status is not RUNNING (R217). -/
  | ended (s : State)
  /-- The bound is used up and the run goes on: neither success nor failure (93 U9). -/
  | outOfFuel (s : State)
  /-- A step was refused. -/
  | refused (r : Refusal)
  deriving DecidableEq, Repr

/-- `while status == RUNNING do Step()` (R216) for at most so many turns. -/
def runLoop : Nat → State → RunResult
  | 0, s => if s.status = .running then .outOfFuel s else .ended s
  | n + 1, s =>
    if s.status = .running then
      match step s with
      | .next t => runLoop n t
      | .fault f => nomatch f
      | .refused r => .refused r
    else .ended s

/-- `Run()` (R215, R216) for at most so many turns. -/
def State.run (s : State) (fuel : Nat) : RunResult := runLoop fuel s.startRun

/-- The host sets the Debug switch (10_state R42), not during a run (R232). -/
def State.setDebug (s : State) (b : Bool) : State :=
  if s.status = .running then s else { s with debug := b }

/-- Bytes arrive on IN (10_state R41): the caller owns the stream; after it is closed nothing arrives. -/
def State.feed (s : State) (bytes : List Byte) : State :=
  if s.inpClosed then s else { s with inp := s.inp ++ bytes }

/-- The host closes IN (60_exceptions R190). -/
def State.closeInput (s : State) : State := { s with inpClosed := true }

/-- Is the Word a Unicode code point? (40_system R125: not above 0x10FFFF, not in 0xD800 .. 0xDFFF.) -/
def isCodePoint (w : Word) : Bool :=
  w.toNat ≤ 0x10FFFF && !(0xD800 ≤ w.toNat && w.toNat ≤ 0xDFFF)

/-- OUT_ENCODE (00_scope R10) for the Word at a position of OUT: one byte up to 127, free above (40_system R125; log entry 13). -/
def outEncode (pos : Nat) (w : Word) : List Byte :=
  if w.toNat ≤ 127 then [w.setWidth 8]
  else if isCodePoint w then Config.outEncodeChar w
  else Config.outEncodeDraw pos w

/-- The bytes of the snapshot lines that stand before the `pos`-th Word of OUT (60_exceptions R200); the text is a free value
of what the line shows. -/
def snapshotBytes (snaps : List Snapshot) (pos : Nat) : List Byte :=
  snaps.zipIdx.flatMap fun p => if p.1.outPos = pos then Config.snapshotText p.2 p.1.toSnapshotLine else []

/-- The bytes the host's output stream has received: the Words of OUT through OUT_ENCODE (R217), and in debug mode the snapshot lines
between them (60_exceptions R200). -/
def State.streamBytes (s : State) : List Byte :=
  (s.out.zipIdx.flatMap fun p => snapshotBytes s.snaps p.2 ++ outEncode p.2 p.1) ++ snapshotBytes s.snaps s.out.length

end Sys2Proof.Machine
end

