-- ==== Sys2Proof/Machine/Ports.lean ====
section
/-! DEFINITION. The hardware ports of spec 70_reset R230, the spec's own rendering of the host operations: the outputs as functions of the
state, one beat of each input as an operation on it. `clk` is no state (R226; log entry 25). -/

namespace Sys2Proof.Machine

/-- `rst`: performs Create (R210), with the machine's own parameters; there is no IN port, so nothing is on IN. -/
def State.rstPort (s : State) : State := State.create s.cfg []

/-- `halted`: status = HALTED. -/
def State.haltedPort (s : State) : Bool :=
  match s.status with
  | .halted => true
  | .idle | .running | .failed _ _ => false

/-- `failed`: status = FAILED. -/
def State.failedPort (s : State) : Bool :=
  match s.status with
  | .failed _ _ => true
  | .idle | .running | .halted => false

/-- The numeric cause code (60_exceptions R180). -/
def Cause.code : Cause → BitVec 2
  | .unknownOpcode => 1
  | .outOfRange => 2

/-- `cause`: 0 none, 1 UnknownOpcode, 2 OutOfRange. -/
def State.causePort (s : State) : BitVec 2 :=
  match s.status with
  | .failed c _ => c.code
  | .idle | .running | .halted => 0

/-- `info`: the info Word of the failure; without a failure the spec gives the port no value. -/
def State.infoPort (s : State) : Option Word :=
  match s.status with
  | .failed _ w => some w
  | .idle | .running | .halted => none

/-- `out_valid`, `out_data` of the step from `s` to `t`: the Word the step has appended to OUT, if it has. -/
def outPort (s t : State) : Option Word := t.out[s.out.length]?

/-- `ld_valid`, `ld_addr`, `ld_data`: one beat of Load, accepted only while status is not RUNNING and the address is in memory. -/
def State.loadBeat (s : State) (addr data : Word) : State :=
  if s.status = .running then s else s.memWrite addr.toNat data

/-- `ld_done`: ends a Load; pc <- 0, status IDLE. During a run no Load is there to end, and nothing happens. -/
def State.loadDone (s : State) : State :=
  if s.status = .running then s else (s.setPc 0).setStatus .idle

/-- `run`: performs Run when status is not RUNNING. -/
def State.runPort (s : State) : State := if s.status = .running then s else s.startRun

/-- The beats of a whole program, from an address upward. -/
def State.loadBeats : State → Nat → Program → State
  | s, _, [] => s
  | s, k, w :: ws => State.loadBeats (s.loadBeat (BitVec.ofNat 64 k) w) (k + 1) ws

/-- `dbg_en`: the level of the Debug switch. Between runs `Debug` follows it; during a run the host does not touch it (R232; log entries
16, 30). -/
def State.dbgEnPort (s : State) (level : Bool) : State := s.setDebug level

/-- Is the machine held before a fetch, its snapshot shown? (60_exceptions R200, R202.) -/
def State.held (s : State) : Bool := decide (s.status = .running) && s.debug && s.hold

/-- `dbg_step`: the single-step release (60_exceptions R202). The strobe takes the place of a line of IN: it releases the hold, no byte
of IN is read, and the held instruction cycle is performed. With no hold on there is nothing to release (log entry 30). -/
def State.dbgStepPort (s : State) : Result := if s.held then (s.release s.inp).cycle else .next s

/-- `dbg_pc`, `dbg_a`, `dbg_i`, `dbg_x`, `dbg_y`, `dbg_z`: the read-only view of the registers. -/
def State.dbgPorts (s : State) : Word × Word × Word × Word × Word × Bool := (s.pc, s.a, s.i, s.x, s.y, s.z)

/-- The rest of the view of 60_exceptions R202, `MEM[pc]` and `MEM[pc+1]`; none outside memory. At pc = 2^64 - 1 the spec does not say
whether pc + 1 wraps or lies outside memory: that it wraps, so that `MEM[0]` is shown, is the model's own (DESIGN CHOICE, log entry 31). -/
def State.dbgMem (s : State) : Option Word × Option Word := (s.memRead s.pc, s.memRead (s.pc + 1))

end Sys2Proof.Machine
end

