-- ==== Sys2Proof/Safety.lean ====
section
/-! DEFINITION. The terms claims use: the invariant of the machine, how a run stands, and when an instruction is next to execute. -/

namespace Sys2Proof.Machine

/-- A FAILED status records a failure that is one: the info Word is outside memory, or is no opcode (60_exceptions R181, R182). -/
def State.failureOk (s : State) : Bool :=
  match s.status with
  | .failed .outOfRange a => decide (s.cfg.memSize ≤ a.toNat)
  | .failed .unknownOpcode w => (s.cfg.decode w).isNone
  | .idle | .running | .halted => true

/-- The invariant: the parameters are within their bounds (00_scope R8, R9); memory is in canonical form and inside `0 .. MEMSIZE - 1`
(10_state R38); a recorded failure is one; the hold is on only in a debug run (60_exceptions R200); every snapshot line stands at a
place of OUT. -/
abbrev State.Inv (s : State) : Prop :=
  s.cfg.Wf ∧ s.mem.wf ∧ (∀ p ∈ s.mem, p.1 < s.cfg.memSize) ∧ s.failureOk = true ∧
    (s.hold = true → s.status = .running ∧ s.debug = true) ∧ ∀ n ∈ s.snaps, n.outPos ≤ s.out.length

/-- The machine is in a run with the debug mode off, the launch the spec's rules describe (70_reset R218, 60_exceptions R202). -/
abbrev State.Running (s : State) : Prop := s.status = .running ∧ s.debug = false

/-- The run has ended (70_reset R217). -/
abbrev State.Ended (s : State) : Prop := s.status ≠ .running

/-- The instruction is next to execute: its opcode word stands at pc, inside memory, in a running machine whose OPVAL tells the opcodes
apart (00_scope R9). The word is the instruction's under the machine's own OPVAL, whatever it is; or, with decision D1 (the default
numbering, 30_encoding R84) as the named premise, it is the given number. -/
abbrev State.NextIs (s : State) (i : Instr) (value : Nat) : Prop :=
  s.Running ∧ s.cfg.Wf ∧ s.pc.toNat < s.cfg.memSize ∧
    (Memory.read s.mem s.pc.toNat = s.cfg.opval.value i ∨
      (s.cfg.opval = OpVal.default ∧ Memory.read s.mem s.pc.toNat = BitVec.ofNat 64 value))

/-- The state a step leaves when its opcode fetch fails: only the status is changed (20_memory R54, 60_exceptions R187). -/
def State.opcodeFetchFailed (s : State) : State := { s with status := .failed .outOfRange s.pc }

/-- The state a step leaves when the opcode word stood at the last address and its operand fetch fails: pc is MEMSIZE, and so is the info
Word (60_exceptions R187). -/
def State.operandFetchFailed (s : State) : State :=
  { s with pc := BitVec.ofNat 64 s.cfg.memSize, status := .failed .outOfRange (BitVec.ofNat 64 s.cfg.memSize) }

/-- The part every instruction's rule shares: outside memory the opcode fetch raises OutOfRange(pc). -/
abbrev State.OpcodeFetchRaises (s : State) : Prop :=
  s.Running → s.cfg.memSize ≤ s.pc.toNat → step s = .next s.opcodeFetchFailed

/-- The instructions that read a register, as 10_state R22 to R25 list them. -/
def Reg.readers : Reg → List Instr
  | .A => [.inca, .deca, .mvay, .mvax, .outa]
  | .I => [.deci, .inci, .jinz, .ldai, .cmpi]
  | .X => [.adxy]
  | .Y => [.adxy, .mvya]

/-- The instructions that write a register, as 10_state R22 to R25 list them. -/
def Reg.writers : Reg → List Instr
  | .A => [.inca, .deca, .seta, .mvya, .ldai]
  | .I => [.seti, .deci, .inci]
  | .X => [.mvax]
  | .Y => [.mvay, .adxy]

/-- When the execution of an instruction, its opcode word fetched, raises OutOfRange: the table of 60_exceptions R184. -/
def State.RaisesOutOfRange (s : State) (i : Instr) : Prop :=
  match i with
  | .halt | .noop | .inca | .deca | .deci | .inci | .mvay | .mvax | .mvya | .adxy | .outa => False
  | .seta | .seti | .jump | .cmpi => s.cfg.memSize ≤ s.pc.toNat
  | .jinz => s.i ≠ 0 ∧ s.cfg.memSize ≤ s.pc.toNat
  | .jneq => s.z = false ∧ s.cfg.memSize ≤ s.pc.toNat
  | .ldai =>
    s.cfg.memSize ≤ s.pc.toNat ∨
      s.cfg.memSize ≤ (s.i.toNat + (Memory.read s.mem s.pc.toNat).toNat) % 2 ^ 64

end Sys2Proof.Machine
end

