-- ==== Sys2Proof/Certificates/Slice0/Obligations.lean ====
section
/-! DEFINITION. The statements for the provers, each from the rules of spec/ its docstring names. -/

open Sys2Proof Sys2Proof.Machine

/-- Create leaves every register, Z, memory and OUT zero, false or empty, and reset is Create with the default parameters
(70_reset_and_hazards.md section 1 (Create), 10_state.md section 9, 92_eei_decisions.md D4, 00_scope.md section 4). -/
def Obligations.CreateMakesFreshMachine : Prop :=
  (∀ (c : Config) (input : List Byte),
    (State.create c input).a = 0 ∧ (State.create c input).i = 0 ∧ (State.create c input).x = 0 ∧ (State.create c input).y = 0 ∧
    (State.create c input).pc = 0 ∧ (State.create c input).z = false ∧ (State.create c input).out = [] ∧
    (State.create c input).status = .idle ∧ (State.create c input).debug = false ∧ (State.create c input).cfg = c ∧
    (State.create c input).inp = input ∧ (State.create c input).inpClosed = false ∧ (State.create c input).snaps = [] ∧
    (State.create c input).hold = false ∧ ∀ a, Memory.read (State.create c input).mem a = 0) ∧
  State.reset = State.create Config.default [] ∧ Config.default.memSize = 1024

/-- The invariant holds after reset (70_reset_and_hazards.md section 1 (Create), 00_scope.md section 4, 10_state.md section 9). -/
def Obligations.ResetMeetsInvariant : Prop :=
  State.reset.Inv

/-- Every step keeps the invariant, from every state that meets it (20_memory.md sections 1 to 3, 60_exceptions.md section 1, 10_state.md
sections 5 to 7, 60_exceptions.md section 8, 00_scope.md section 4). -/
def Obligations.StepKeepsInvariant : Prop :=
  ∀ s t : State, s.Inv → step s = .next t → t.Inv

/-- A step of a running machine fetches, decodes and executes (R120). -/
def Obligations.StepRunsDecodedInstruction : Prop :=
  ∀ s : State, s.Running →
    (s.cfg.memSize ≤ s.pc.toNat → step s = .next s.opcodeFetchFailed) ∧
    (s.pc.toNat < s.cfg.memSize → s.cfg.decode (Memory.read s.mem s.pc.toNat) = none →
      step s = .next { s with pc := s.pc + 1, status := .failed .unknownOpcode (Memory.read s.mem s.pc.toNat) }) ∧
    (∀ i, s.pc.toNat < s.cfg.memSize → s.cfg.decode (Memory.read s.mem s.pc.toNat) = some i →
      step s = exec i { s with pc := s.pc + 1 }) ∧
    (∀ t, step s = .next t →
      t.status = .running ∨ (t.status = .halted ∧ s.cfg.decode (Memory.read s.mem s.pc.toNat) = some .halt) ∨
        ∃ c w, t.status = .failed c w)

/-- A machine that is not running stays as it is (the model's choice, log entry 6) (40_system.md section 1, 10_state.md section 9,
70_reset_and_hazards.md section 3). -/
def Obligations.EndedMachineStays : Prop :=
  ∀ s : State, s.Ended → step s = .next s

/-- HALT sets status HALTED and changes nothing else; pc stays just past the HALT word (R121). -/
def Obligations.HaltStopsRun : Prop :=
  ∀ s : State, exec .halt s = .next { s with status := .halted } ∧
    (s.NextIs .halt 0 → step s = .next { s with status := .halted, pc := s.pc + 1 }) ∧ s.OpcodeFetchRaises ∧
    ∀ i t, s.status = .running → exec i s = .next t → t.status = .halted → i = .halt

/-- NOOP changes nothing but the pc increment of the opcode fetch (R122). -/
def Obligations.NoopChangesNothing : Prop :=
  ∀ s : State, exec .noop s = .next s ∧
    (s.NextIs .noop 1 → step s = .next { s with pc := s.pc + 1 }) ∧ s.OpcodeFetchRaises

/-- OUTA appends the whole Word of A to OUT and changes nothing else (R124). -/
def Obligations.OutaAppendsA : Prop :=
  ∀ s : State, exec .outa s = .next { s with out := s.out ++ [s.a] } ∧
    (s.NextIs .outa 12 → step s = .next { s with out := s.out ++ [s.a], pc := s.pc + 1 }) ∧ s.OpcodeFetchRaises

/-- INCA adds one to A modulo 2^64 and changes nothing else (R132). -/
def Obligations.IncaAddsOneToA : Prop :=
  ∀ s : State, ∃ v : Word, v.toNat = (s.a.toNat + 1) % 2 ^ 64 ∧
    exec .inca s = .next { s with a := v } ∧
    (s.NextIs .inca 2 → step s = .next { s with a := v, pc := s.pc + 1 }) ∧ s.OpcodeFetchRaises

/-- DECA subtracts one from A modulo 2^64 and changes nothing else (R133). -/
def Obligations.DecaSubtractsOneFromA : Prop :=
  ∀ s : State, ∃ v : Word, (v.toNat : Int) = ((s.a.toNat : Int) - 1) % 2 ^ 64 ∧
    exec .deca s = .next { s with a := v } ∧
    (s.NextIs .deca 3 → step s = .next { s with a := v, pc := s.pc + 1 }) ∧ s.OpcodeFetchRaises

/-- DECI subtracts one from I modulo 2^64, does not touch Z, and a JINZ that follows tests I itself (R134). -/
def Obligations.DeciSubtractsOneFromI : Prop :=
  ∀ s : State, ∃ v : Word, (v.toNat : Int) = ((s.i.toNat : Int) - 1) % 2 ^ 64 ∧
    exec .deci s = .next { s with i := v } ∧
    (s.NextIs .deci 6 → step s = .next { s with i := v, pc := s.pc + 1 }) ∧ s.OpcodeFetchRaises ∧
    (∀ t, exec .deci s = .next t → t.pc.toNat < t.cfg.memSize →
      exec .jinz t = .next { t with pc := if s.i = 1 then t.pc + 1 else Memory.read t.mem t.pc.toNat })

/-- INCI adds one to I modulo 2^64 and changes nothing else (R135). -/
def Obligations.InciAddsOneToI : Prop :=
  ∀ s : State, ∃ v : Word, v.toNat = (s.i.toNat + 1) % 2 ^ 64 ∧
    exec .inci s = .next { s with i := v } ∧
    (s.NextIs .inci 14 → step s = .next { s with i := v, pc := s.pc + 1 }) ∧ s.OpcodeFetchRaises

/-- ADXY adds X to Y modulo 2^64 and leaves X (R136). -/
def Obligations.AdxyAddsXToY : Prop :=
  ∀ s : State, ∃ v : Word, v.toNat = (s.y.toNat + s.x.toNat) % 2 ^ 64 ∧
    exec .adxy s = .next { s with y := v } ∧
    (s.NextIs .adxy 9 → step s = .next { s with y := v, pc := s.pc + 1 }) ∧ s.OpcodeFetchRaises

/-- MVAY copies A to Y and changes nothing else (R153). -/
def Obligations.MvayCopiesAToY : Prop :=
  ∀ s : State, exec .mvay s = .next { s with y := s.a } ∧
    (s.NextIs .mvay 8 → step s = .next { s with y := s.a, pc := s.pc + 1 }) ∧ s.OpcodeFetchRaises

/-- MVAX copies A to X and changes nothing else, and no other instruction writes X (R154). -/
def Obligations.MvaxCopiesAToX : Prop :=
  ∀ s : State, exec .mvax s = .next { s with x := s.a } ∧
    (s.NextIs .mvax 10 → step s = .next { s with x := s.a, pc := s.pc + 1 }) ∧ s.OpcodeFetchRaises ∧
    ∀ i t, exec i s = .next t → t.x ≠ s.x → i = .mvax

/-- MVYA copies Y to A and changes nothing else (R155). -/
def Obligations.MvyaCopiesYToA : Prop :=
  ∀ s : State, exec .mvya s = .next { s with a := s.y } ∧
    (s.NextIs .mvya 11 → step s = .next { s with a := s.y, pc := s.pc + 1 }) ∧ s.OpcodeFetchRaises

/-- CMPI sets Z to whether I equals the operand word, all 64 bits, and leaves I (R138). -/
def Obligations.CmpiSetsZToEquality : Prop :=
  ∀ s : State,
    (s.pc.toNat < s.cfg.memSize → exec .cmpi s = .next { s with z := decide (s.i.toNat = (Memory.read s.mem s.pc.toNat).toNat), pc := s.pc + 1 }) ∧
    (s.cfg.memSize ≤ s.pc.toNat → exec .cmpi s = .next { s with status := .failed .outOfRange s.pc }) ∧
    (s.NextIs .cmpi 16 → s.pc.toNat + 1 < s.cfg.memSize → step s = .next { s with z := decide (s.i.toNat = (Memory.read s.mem (s.pc.toNat + 1)).toNat), pc := s.pc + 2 }) ∧
    (s.NextIs .cmpi 16 → s.pc.toNat + 1 = s.cfg.memSize → step s = .next s.operandFetchFailed) ∧
    s.OpcodeFetchRaises

/-- SETA loads the operand word into A and changes nothing else (R151). -/
def Obligations.SetaLoadsOperand : Prop :=
  ∀ s : State,
    (s.pc.toNat < s.cfg.memSize → exec .seta s = .next { s with a := Memory.read s.mem s.pc.toNat, pc := s.pc + 1 }) ∧
    (s.cfg.memSize ≤ s.pc.toNat → exec .seta s = .next { s with status := .failed .outOfRange s.pc }) ∧
    (s.NextIs .seta 4 → s.pc.toNat + 1 < s.cfg.memSize → step s = .next { s with a := Memory.read s.mem (s.pc.toNat + 1), pc := s.pc + 2 }) ∧
    (s.NextIs .seta 4 → s.pc.toNat + 1 = s.cfg.memSize → step s = .next s.operandFetchFailed) ∧
    s.OpcodeFetchRaises

/-- SETI loads the operand word into I, does not touch Z, and changes nothing else (R152). -/
def Obligations.SetiLoadsOperand : Prop :=
  ∀ s : State,
    (s.pc.toNat < s.cfg.memSize → exec .seti s = .next { s with i := Memory.read s.mem s.pc.toNat, pc := s.pc + 1 }) ∧
    (s.cfg.memSize ≤ s.pc.toNat → exec .seti s = .next { s with status := .failed .outOfRange s.pc }) ∧
    (s.NextIs .seti 5 → s.pc.toNat + 1 < s.cfg.memSize → step s = .next { s with i := Memory.read s.mem (s.pc.toNat + 1), pc := s.pc + 2 }) ∧
    (s.NextIs .seti 5 → s.pc.toNat + 1 = s.cfg.memSize → step s = .next s.operandFetchFailed) ∧
    s.OpcodeFetchRaises ∧
    (∀ t, s.pc.toNat < s.cfg.memSize → Memory.read s.mem s.pc.toNat = 0 → exec .seti s = .next t →
      exec .jinz t = .next { t with pc := t.pc + 1 })

/-- JUMP puts the operand word into pc, unchecked, and changes nothing else (R163). -/
def Obligations.JumpGoesToOperand : Prop :=
  ∀ s : State,
    (s.pc.toNat < s.cfg.memSize → exec .jump s = .next { s with pc := Memory.read s.mem s.pc.toNat }) ∧
    (s.cfg.memSize ≤ s.pc.toNat → exec .jump s = .next { s with status := .failed .outOfRange s.pc }) ∧
    (s.NextIs .jump 13 → s.pc.toNat + 1 < s.cfg.memSize → step s = .next { s with pc := Memory.read s.mem (s.pc.toNat + 1) }) ∧
    (s.NextIs .jump 13 → s.pc.toNat + 1 = s.cfg.memSize → step s = .next s.operandFetchFailed) ∧
    s.OpcodeFetchRaises ∧
    (∀ t, s.Running → s.pc.toNat < s.cfg.memSize → s.cfg.memSize ≤ (Memory.read s.mem s.pc.toNat).toNat →
      exec .jump s = .next t → step t = .next { t with status := .failed .outOfRange (Memory.read s.mem s.pc.toNat) })

/-- JINZ jumps to the operand word exactly when I is not zero (43_control_transfer.md section 1 (JINZ), 92_eei_decisions.md D7,
92_eei_decisions.md D1). -/
def Obligations.JinzJumpsWhenIndexNotZero : Prop :=
  ∀ s : State,
    (s.i ≠ 0 → s.pc.toNat < s.cfg.memSize → exec .jinz s = .next { s with pc := Memory.read s.mem s.pc.toNat }) ∧
    (s.i ≠ 0 → s.cfg.memSize ≤ s.pc.toNat → exec .jinz s = .next { s with status := .failed .outOfRange s.pc }) ∧
    (s.i = 0 → exec .jinz s = .next { s with pc := s.pc + 1 }) ∧
    (s.NextIs .jinz 7 → s.i ≠ 0 → s.pc.toNat + 1 < s.cfg.memSize →
      step s = .next { s with pc := Memory.read s.mem (s.pc.toNat + 1) }) ∧
    (s.NextIs .jinz 7 → s.i ≠ 0 → s.pc.toNat + 1 = s.cfg.memSize → step s = .next s.operandFetchFailed) ∧
    (s.NextIs .jinz 7 → s.i = 0 → step s = .next { s with pc := s.pc + 2 }) ∧
    s.OpcodeFetchRaises

/-- JNEQ jumps to the operand word exactly when Z is false, and leaves Z (43_control_transfer.md section 3 (JNEQ), 92_eei_decisions.md D7,
92_eei_decisions.md D1). -/
def Obligations.JneqJumpsWhenZFalse : Prop :=
  ∀ s : State,
    (s.z = false → s.pc.toNat < s.cfg.memSize → exec .jneq s = .next { s with pc := Memory.read s.mem s.pc.toNat }) ∧
    (s.z = false → s.cfg.memSize ≤ s.pc.toNat → exec .jneq s = .next { s with status := .failed .outOfRange s.pc }) ∧
    (s.z = true → exec .jneq s = .next { s with pc := s.pc + 1 }) ∧
    (s.NextIs .jneq 17 → s.z = false → s.pc.toNat + 1 < s.cfg.memSize →
      step s = .next { s with pc := Memory.read s.mem (s.pc.toNat + 1) }) ∧
    (s.NextIs .jneq 17 → s.z = false → s.pc.toNat + 1 = s.cfg.memSize → step s = .next s.operandFetchFailed) ∧
    (s.NextIs .jneq 17 → s.z = true → step s = .next { s with pc := s.pc + 2 }) ∧
    s.OpcodeFetchRaises

/-- LDAI loads the Word at (I + operand) mod 2^64 into A, or raises OutOfRange (R171). -/
def Obligations.LdaiLoadsIndexedWord : Prop :=
  ∀ s : State,
    (∀ ea : Word, s.pc.toNat < s.cfg.memSize → ea.toNat = (s.i.toNat + (Memory.read s.mem s.pc.toNat).toNat) % 2 ^ 64 →
      (ea.toNat < s.cfg.memSize →
        exec .ldai s = .next { s with a := Memory.read s.mem ea.toNat, pc := s.pc + 1 }) ∧
      (s.cfg.memSize ≤ ea.toNat → exec .ldai s = .next { s with pc := s.pc + 1, status := .failed .outOfRange ea })) ∧
    (s.cfg.memSize ≤ s.pc.toNat → exec .ldai s = .next { s with status := .failed .outOfRange s.pc }) ∧
    (∀ ea : Word, s.NextIs .ldai 15 → s.pc.toNat + 1 < s.cfg.memSize →
      ea.toNat = (s.i.toNat + (Memory.read s.mem (s.pc.toNat + 1)).toNat) % 2 ^ 64 →
      (ea.toNat < s.cfg.memSize → step s = .next { s with a := Memory.read s.mem ea.toNat, pc := s.pc + 2 }) ∧
      (s.cfg.memSize ≤ ea.toNat → step s = .next { s with pc := s.pc + 2, status := .failed .outOfRange ea })) ∧
    (s.NextIs .ldai 15 → s.pc.toNat + 1 = s.cfg.memSize → step s = .next s.operandFetchFailed) ∧
    s.OpcodeFetchRaises

/-- Each general register is changed only by the instructions the spec lists as its writers (10_state.md section 2, 42_moves.md
(introduction)). -/
def Obligations.RegistersWrittenOnlyByTheirWriters : Prop :=
  ∀ (i : Instr) (r : Reg) (s t : State), exec i s = .next t → t.reg r ≠ s.reg r → i ∈ r.writers

/-- An instruction that is not a listed reader of a register does not depend on its value (10_state.md section 2). -/
def Obligations.RegistersReadOnlyByTheirReaders : Prop :=
  ∀ (i : Instr) (r : Reg) (s t u : State) (v : Word), i ∉ r.readers → exec i s = .next t →
    exec i (s.setReg r v) = .next u → (t.reg r = s.reg r ∧ u = t.setReg r v) ∨ u = t

/-- Z is written by CMPI only and read by JNEQ only; Load does not change it; after Create it is false (R36). -/
def Obligations.ZWrittenByCmpiReadByJneqOnly : Prop :=
  (∀ (i : Instr) (s t : State), i ≠ .cmpi → exec i s = .next t → t.z = s.z) ∧
  (∀ (i : Instr) (s t u : State) (b : Bool), i ≠ .jneq → exec i s = .next t → exec i (s.setZ b) = .next u →
    (t.z = s.z ∧ u = t.setZ b) ∨ u = t) ∧
  (∀ (s t : State) (p : Program), s.load p = .loaded t → t.z = s.z) ∧
  (∀ (c : Config) (input : List Byte), (State.create c input).z = false)

/-- Z keeps the result of the most recent CMPI through any number of steps without a CMPI (R139). -/
def Obligations.ZKeptUntilNextCompare : Prop :=
  (∀ s t : State, s.pc.toNat < s.cfg.memSize → exec .cmpi s = .next t →
    t.z = decide (s.i = Memory.read s.mem s.pc.toNat)) ∧
  (∀ (n : Nat) (s t : State), Host.Core.run Sys2Proof.core n s = .next t →
    (∀ (m : Nat) (u : State), m < n → Host.Core.run Sys2Proof.core m s = .next u → u.status = .running →
      u.cfg.decode (Memory.read u.mem u.pc.toNat) ≠ some .cmpi) →
    t.z = s.z)

/-- No number of steps changes memory, MEMSIZE or OPVAL (20_memory.md section 3, 20_memory.md section 5, 70_reset_and_hazards.md section
1, 70_reset_and_hazards.md section 5). -/
def Obligations.MemoryConstantDuringRun : Prop :=
  ∀ (n : Nat) (s t : State), Host.Core.run Sys2Proof.core n s = .next t → t.mem = s.mem ∧ t.cfg = s.cfg

/-- A step leaves OUT alone or, executing OUTA, appends the Word of A (with Debug true, the model's choice: log entries 17, 20)
(10_state.md section 7, 40_system.md section 4). -/
def Obligations.OutGrowsOnlyByOuta : Prop :=
  ∀ s t : State, step s = .next t →
    t.out = s.out ∨
      (s.status = .running ∧ s.pc.toNat < s.cfg.memSize ∧
        s.cfg.decode (Memory.read s.mem s.pc.toNat) = some .outa ∧ t.out = s.out ++ [s.a])

/-- With Debug false a step does not read IN or its end, and changes none of IN, its end, Debug, the snapshots and the hold (10_state.md
section 7, 60_exceptions.md section 7). -/
def Obligations.InputUntouchedWithoutDebug : Prop :=
  ∀ (s t : State) (bytes : List Byte) (closed : Bool), s.debug = false → step s = .next t →
    t.inp = s.inp ∧ t.inpClosed = s.inpClosed ∧ t.debug = s.debug ∧ t.snaps = s.snaps ∧ t.hold = s.hold ∧
    step { s with inp := bytes, inpClosed := closed } = .next { t with inp := bytes, inpClosed := closed }

/-- What an instruction does does not depend on the run status (10_state.md section 6, 10_state.md section 8). -/
def Obligations.NoInstructionReadsStatus : Prop :=
  ∀ (i : Instr) (s t u : State) (q : Status), exec i s = .next t → exec i (s.setStatus q) = .next u →
    (t.status = s.status ∧ u = t.setStatus q) ∨ u = t

/-- Every instruction answers a next state from every state, and fails exactly where the spec's table says (60_exceptions.md section 1,
60_exceptions.md section 5). -/
def Obligations.ExecFailsExactlyByTable : Prop :=
  ∀ (i : Instr) (s : State), ∃ t, exec i s = .next t ∧
    (s.status = .running →
      (s.RaisesOutOfRange i → ∃ a, t.status = .failed .outOfRange a) ∧
      (¬ s.RaisesOutOfRange i → t.status = .running ∨ (i = .halt ∧ t.status = .halted)))

/-- A step answers a next state, and ends the run exactly at HALT, an unknown opcode or an out-of-range address (43_control_transfer.md
section 4, 90_conflicts.md C6, 70_reset_and_hazards.md section 3). -/
def Obligations.StepEndsRunExactlyAtStop : Prop :=
  ∀ s : State, s.Running → ∃ t, step s = .next t ∧
    (t.Ended ↔
      s.cfg.memSize ≤ s.pc.toNat ∨ s.cfg.decode (Memory.read s.mem s.pc.toNat) = none ∨
        ∃ i, s.cfg.decode (Memory.read s.mem s.pc.toNat) = some i ∧
          (i = .halt ∨ State.RaisesOutOfRange { s with pc := s.pc + 1 } i))

/-- An execution error changes the status, keeps the pc increments of the successful fetches, and nothing else (R186). -/
def Obligations.FailedStepChangesOnlyPcAndStatus : Prop :=
  (∀ (s : State) (c : Cause) (w : Word), s.raise c w = { s with status := .failed c w }) ∧
  (∀ (s t : State) (c : Cause) (w : Word), s.Running → step s = .next t → t.status = .failed c w →
    t.Ended ∧ t = { s with pc := t.pc, status := .failed c w } ∧
      ((s.cfg.memSize ≤ s.pc.toNat ∧ c = .outOfRange ∧ w = s.pc ∧ t.pc = s.pc) ∨
        (s.pc.toNat < s.cfg.memSize ∧ s.cfg.decode (Memory.read s.mem s.pc.toNat) = none ∧ c = .unknownOpcode ∧
          w = Memory.read s.mem s.pc.toNat ∧ t.pc = s.pc + 1) ∨
        (s.pc.toNat < s.cfg.memSize ∧ s.cfg.decode (Memory.read s.mem s.pc.toNat) ≠ none ∧
          s.cfg.memSize ≤ (s.pc + 1).toNat ∧ c = .outOfRange ∧ w = s.pc + 1 ∧ t.pc = s.pc + 1) ∨
        (s.pc.toNat < s.cfg.memSize ∧ s.cfg.decode (Memory.read s.mem s.pc.toNat) = some .ldai ∧
          (s.pc + 1).toNat < s.cfg.memSize ∧ s.cfg.memSize ≤ w.toNat ∧ c = .outOfRange ∧ t.pc = s.pc + 2)))

/-- Every failure leaves the pc, cause and info of the spec's table of failures, in its order of priority (60_exceptions.md section 3,
60_exceptions.md section 2, 20_memory.md section 2). -/
def Obligations.FailureLeavesTableState : Prop :=
  ∀ (s t : State) (c : Cause) (w : Word), s.Running → s.cfg.Wf → step s = .next t → t.status = .failed c w →
    if s.cfg.memSize ≤ s.pc.toNat then c = .outOfRange ∧ w = s.pc ∧ t.pc = s.pc
    else if s.cfg.decode (Memory.read s.mem s.pc.toNat) = none then
      c = .unknownOpcode ∧ w = Memory.read s.mem s.pc.toNat ∧ t.pc = s.pc + 1
    else if s.pc.toNat + 1 = s.cfg.memSize then
      c = .outOfRange ∧ w.toNat = s.cfg.memSize ∧ t.pc.toNat = s.cfg.memSize
    else
      s.cfg.decode (Memory.read s.mem s.pc.toNat) = some .ldai ∧ c = .outOfRange ∧
        w.toNat = (s.i.toNat + (Memory.read s.mem (s.pc.toNat + 1)).toNat) % 2 ^ 64 ∧ s.cfg.memSize ≤ w.toNat ∧
        t.pc = s.pc + 2

/-- An instruction's length is 2 for the seven operand instructions and 1 for the rest, jump taken or not (R87). -/
def Obligations.LengthDecidedByOpcode : Prop :=
  (∀ i : Instr, i.length = if i ∈ [.seta, .seti, .jinz, .jump, .ldai, .cmpi, .jneq] then 2 else 1) ∧
  (∀ (s t : State) (i : Instr), s.Running → s.cfg.Wf → s.pc.toNat < s.cfg.memSize →
    s.cfg.decode (Memory.read s.mem s.pc.toNat) = some i → step s = .next t →
    t.status = .running ∨ t.status = .halted →
    i ∉ [.jinz, .jump, .jneq] ∨ (i = .jinz ∧ s.i = 0) ∨ (i = .jneq ∧ s.z = true) →
    t.pc.toNat = s.pc.toNat + i.length) ∧
  (∀ (s : State) (i : Instr), (i = .jinz ∧ s.i = 0) ∨ (i = .jneq ∧ s.z = true) →
    exec i s = .next { s with pc := s.pc + 1 })

/-- decode gives the instruction whose opcode value is the whole Word, and none for every other Word (R86). -/
def Obligations.DecodeComparesWholeWord : Prop :=
  ∀ (c : Config) (w : Word), c.Wf →
    (∀ i, c.decode w = some i ↔ w = c.opval.value i) ∧ (c.decode w = none ↔ ∀ i, w ≠ c.opval.value i)

/-- Under the default OPVAL (decision D1, log entry 3) the n-th name of the enumeration has value n and every Word from 18 up is unknown
(30_encoding.md section 2, 30_encoding.md section 3, 92_eei_decisions.md D1). -/
def Obligations.DefaultOpcodesAreBelowEighteen : Prop :=
  ∀ w : Word, Config.default.decode w = Instr.all[w.toNat]? ∧ (Config.default.decode w = none ↔ 18 ≤ w.toNat)

/-- Reading back an encoded instruction gives it, operand included, and only its own Words read as it (30_encoding.md section 1,
30_encoding.md section 3). -/
def Obligations.DecodeAndEncodeAgree : Prop :=
  ∀ c : Config, c.Wf →
    (∀ (k : Code) (rest : List Word), k.Wf → c.decodeCode (c.encode k ++ rest) = .code k rest) ∧
    (∀ (ws : List Word) (k : Code) (rest : List Word), c.decodeCode ws = .code k rest → k.Wf ∧ ws = c.encode k ++ rest)

/-- A few words written out under the default OPVAL decode to the instructions they stand for (decision D1, log entry 3) (30_encoding.md
section 2, 30_encoding.md section 4, 92_eei_decisions.md D1). -/
def Obligations.DefaultWordsDecodeAsWritten : Prop :=
  Config.default.decodeCode [0] = .code ⟨.halt, none⟩ [] ∧ Config.default.decodeCode [4, 72] = .code ⟨.seta, some 72⟩ [] ∧
  Config.default.decodeCode [9] = .code ⟨.adxy, none⟩ [] ∧ Config.default.decodeCode [15, 11] = .code ⟨.ldai, some 11⟩ [] ∧
  Config.default.decodeCode [17, 2] = .code ⟨.jneq, some 2⟩ [] ∧
  Config.default.decodeCode [18] = .rejected (.unknownOpcode 18)

/-- A table word placed at pc is the instruction the next step executes (log entry 7) (70_reset_and_hazards.md section 4, 40_system.md
section 1, 30_encoding.md section 1). -/
def Obligations.PlacedWordRunsNext : Prop :=
  ∀ (s : State) (nbits w : Nat) (i : Instr), s.cfg = Config.default → s.mem.wf → s.pc.toNat + 1 < s.cfg.memSize →
    decodeTableWord nbits w = some i →
    step (s.withFetchWord nbits w) = exec i (s.withFetchWord nbits w).advance ∧
      Memory.read (s.withFetchWord nbits w).mem (s.pc.toNat + 1) = BitVec.ofNat 64 (w % 2 ^ nbits / 2 ^ 64)

/-- MemRead raises OutOfRange(addr) outside memory and else gives the Word, changing nothing (R53). -/
def Obligations.MemReadChecksRange : Prop :=
  ∀ (s : State) (addr : Word) (rest : Word → Result),
    (s.cfg.memSize ≤ addr.toNat → s.withRead addr rest = .next { s with status := .failed .outOfRange addr }) ∧
    (addr.toNat < s.cfg.memSize → s.withRead addr rest = rest (Memory.read s.mem addr.toNat))

/-- A Load that fits puts word k at address k, sets pc 0 and status IDLE, and leaves everything else; one that does not changes nothing
(R46). -/
def Obligations.LoadPlacesProgramAndResetsPc : Prop :=
  ∀ (s : State) (p : Program), s.Ended → s.mem.wf →
    (p.length ≤ s.cfg.memSize → ∃ t, s.load p = .loaded t ∧
      (∀ k, k < p.length → p[k]? = some (Memory.read t.mem k)) ∧
      (∀ a, p.length ≤ a → Memory.read t.mem a = Memory.read s.mem a) ∧
      t = { s with mem := t.mem, pc := 0, status := .idle }) ∧
    (s.cfg.memSize < p.length → s.load p = .tooLong)

/-- Load keeps the invariant (70_reset_and_hazards.md section 2, 20_memory.md section 3). -/
def Obligations.LoadKeepsInvariant : Prop :=
  ∀ (s t : State) (p : Program), s.Inv → s.load p = .loaded t → t.Inv

/-- The load port's beats followed by ld_done do exactly what Load does (70_reset_and_hazards.md section 7, 70_reset_and_hazards.md
section 2). -/
def Obligations.PortBeatsMakeALoad : Prop :=
  ∀ (s : State) (p : Program), s.Ended → s.cfg.Wf → p.length ≤ s.cfg.memSize →
    s.load p = .loaded (s.loadBeats 0 p).loadDone

/-- The run loop repeats Step while RUNNING and ends, if it ends, HALTED or FAILED, whatever the bound (R216). -/
def Obligations.RunEndsOnlyHaltedOrFailed : Prop :=
  ∀ (s : State) (n : Nat), s.Running →
    (∃ t, step s = .next t ∧ runLoop (n + 1) s = runLoop n t) ∧
    (∀ t, runLoop n s = .ended t →
      (t.status = .halted ∨ ∃ c w, t.status = .failed c w) ∧ ∀ m, n ≤ m → runLoop m s = .ended t) ∧
    (∀ r, runLoop n s ≠ .refused r) ∧
    (∀ t, runLoop n s = .ended t ↔ ∃ m, m ≤ n ∧ Host.Core.run Sys2Proof.core m s = .next t ∧ t.Ended ∧
      ∀ k, k < m → ∃ u, Host.Core.run Sys2Proof.core k s = .next u ∧ u.status = .running)

/-- Where every Word of OUT is at most 127 and no debug line was written, the host receives one byte per Word, equal to it (40_system.md
section 4, 00_scope.md section 4, 92_eei_decisions.md D10). -/
def Obligations.AsciiOutputIsByteForByte : Prop :=
  ∀ s : State, s.snaps = [] → (∀ w ∈ s.out, w.toNat ≤ 127) → s.streamBytes = s.out.map fun w => BitVec.ofNat 8 w.toNat

/-- With a line at hand, a debug step does what the step without Debug does, plus the snapshot, unless shown already, and the line read
(log entry 17) (10_state.md section 7, 60_exceptions.md section 8). -/
def Obligations.DebugChangesOnlyTheStreams : Prop :=
  ∀ (s t : State) (rest : List Byte), s.status = .running → s.debug = true → takeLine s.inp = some rest →
    step { s with debug := false } = .next t →
    step s = .next
      { t with debug := true, hold := false, inp := rest, snaps := if s.hold then s.snaps else s.snaps ++ [s.snapshot] }

/-- In debug mode, without a whole line in an open IN, the machine shows one snapshot and holds (log entry 17) (60_exceptions.md section
8). -/
def Obligations.DebugHoldsUntilALineArrives : Prop :=
  ∀ (s : State) (k : Nat), s.status = .running → s.debug = true → takeLine s.inp = none →
    (s.inpClosed = false → Host.Core.run Sys2Proof.core (k + 1) s = .next s.renderSnapshot) ∧
    (s.inpClosed = true → step s = .refused .debugInputEnded)

/-- The snapshot shows the registers, the mnemonic at pc, and the Word after it exactly when NEEDS_ARG says so (60_exceptions.md section
8, 30_encoding.md section 2). -/
def Obligations.SnapshotPeeksByNeedsArg : Prop :=
  ∀ (s : State) (i : Instr), s.pc.toNat < s.cfg.memSize → s.cfg.decode (Memory.read s.mem s.pc.toNat) = some i →
    s.snapshot.pc = s.pc ∧ s.snapshot.a = s.a ∧ s.snapshot.i = s.i ∧ s.snapshot.x = s.x ∧ s.snapshot.y = s.y ∧
    s.snapshot.z = s.z ∧ s.snapshot.next = some i ∧
    ((s.pc + 1).toNat < s.cfg.memSize →
      s.snapshot.operand = if i ∈ [.seta, .seti, .jump, .jneq] then some (Memory.read s.mem (s.pc + 1).toNat) else none)

/-- Run, and the run port between runs, set status RUNNING and reset nothing, pc included (D11); in a run the port does nothing (log entry
16) (70_reset_and_hazards.md section 3, 70_reset_and_hazards.md section 7, 92_eei_decisions.md D11). -/
def Obligations.RunStartsAtCurrentPc : Prop :=
  ∀ s : State, s.startRun = { s with status := .running } ∧ (s.Ended → s.runPort = s.startRun) ∧
    (s.status = .running → s.runPort = s)

/-- The output ports show how the run stands: halted, failed, the cause code and the info Word (70_reset_and_hazards.md section 7,
60_exceptions.md section 1). -/
def Obligations.PortsShowStatus : Prop :=
  ∀ s : State, (s.haltedPort = true ↔ s.status = .halted) ∧ (s.failedPort = true ↔ ∃ c w, s.status = .failed c w) ∧
    (∀ w, s.status = .failed .unknownOpcode w → s.causePort = 1 ∧ s.infoPort = some w) ∧
    (∀ w, s.status = .failed .outOfRange w → s.causePort = 2 ∧ s.infoPort = some w) ∧
    ((∀ c w, s.status ≠ .failed c w) → s.causePort = 0)

/-- Every instruction token and every literal token emits exactly one Word, its value, in order; comments emit none (R113). -/
def Obligations.AssemblerEmitsOneWordPerToken : Prop :=
  ∀ (b : Bool) (toks : List Toolchain.Token) (p : Program), Toolchain.assembleTokens b toks = .ok p →
    p = (toks.filter fun t => t.kind ≠ .comment).map Toolchain.Token.value

/-- Assembling well-formed instructions, operands written as literals, gives their encodings (30_encoding.md section 4, 30_encoding.md
section 1). -/
def Obligations.AssemblerWritesEncodings : Prop :=
  ∀ (c : Config) (line : Nat) (ks : List Code), (∀ k ∈ ks, k.Wf) →
    Toolchain.assembleTokens false (ks.flatMap (Toolchain.codeTokens c line)) = .ok (ks.flatMap c.encode)

/-- An instruction straight after SETA, SETI, JUMP or JNEQ is rejected; after any other instruction it is accepted (30_encoding.md section
2, 30_encoding.md section 4). -/
def Obligations.AssemblerChecksNeedsArg : Prop :=
  ∀ (t u : Toolchain.Token) (i j : Instr) (rest : List Toolchain.Token) (p : Program), t.kind = .instruction i →
    u.kind = .instruction j → Toolchain.assembleTokens j.needsArg rest = .ok p →
    Toolchain.assembleTokens false (t :: u :: rest) =
      if i ∈ [.seta, .seti, .jump, .jneq] then .error (.unexpectedInstruction u.raw u.line)
      else .ok (t.value :: u.value :: p)

/-- Every mnemonic, in capitals or in small letters, is one instruction token of its opcode's value on line 1 (30_encoding.md section 4).
-/
def Obligations.LexerReadsEveryMnemonic : Prop :=
  ∀ (c : Config) (i : Instr),
    Toolchain.tokenize c (Toolchain.mnemonic i) = .ok [⟨.instruction i, c.opval.value i, Toolchain.mnemonic i, 1⟩] ∧
    Toolchain.tokenize c ((Toolchain.mnemonic i).map Char.toLower) =
      .ok [⟨.instruction i, c.opval.value i, (Toolchain.mnemonic i).map Char.toLower, 1⟩]

/-- The strobe dbg_step performs the held step as without Debug, with no line read; without a hold it does nothing (log entry 30)
(60_exceptions.md section 8, 70_reset_and_hazards.md section 7). -/
def Obligations.StepStrobeReleasesHold : Prop :=
  (∀ s t : State, s.status = .running → s.debug = true → s.hold = true → step { s with debug := false } = .next t →
    s.dbgStepPort = .next { t with debug := true, hold := false, inp := s.inp, snaps := s.snaps }) ∧
  (∀ s : State, s.Ended ∨ s.debug = false ∨ s.hold = false → s.dbgStepPort = .next s) ∧
  (∀ (s : State) (level : Bool), (s.Ended → s.dbgEnPort level = { s with debug := level }) ∧
    (s.status = .running → s.dbgEnPort level = s))

/-- A snapshot shown, or a Word put out, adds its bytes at the end of the host's stream (log entry 20) (60_exceptions.md section 8,
00_scope.md section 4, 70_reset_and_hazards.md section 3). -/
def Obligations.StreamInterleavesSnapshots : Prop :=
  ∀ s : State, (∀ n ∈ s.snaps, n.outPos ≤ s.out.length) →
    (s.hold = false →
      s.renderSnapshot.streamBytes = s.streamBytes ++ Config.snapshotText s.snaps.length s.snapshot.toSnapshotLine) ∧
    (s.hold = true → s.renderSnapshot = s) ∧
    ∀ v, (s.emit v).streamBytes = s.streamBytes ++ outEncode s.out.length v
end

