-- ==== Sys2Proof/Laws/Decode.lean ====
section
/-! SUPPORT. Decoding under an OPVAL that tells the opcodes apart. -/

namespace Sys2Proof

theorem Instr.mem_all (i : Instr) : i ∈ Instr.all := by cases i <;> decide

/-- OPVAL of a well-formed configuration is injective (00_scope R9). -/
theorem Config.Wf.value_injective {c : Config} (h : c.Wf) {i j : Instr} (hv : c.opval.value i = c.opval.value j) : i = j :=
  List.inj_on_of_nodup_map h.2.2 (Instr.mem_all i) (Instr.mem_all j) hv

/-- What decodes has that opcode value, whatever OPVAL is. -/
theorem Config.value_of_decode {c : Config} {w : Word} {i : Instr} (h : c.decode w = some i) : c.opval.value i = w := by
  simpa using List.find?_some h

/-- The opcode word of an instruction decodes to it. -/
theorem Config.Wf.decode_value {c : Config} (h : c.Wf) (i : Instr) : c.decode (c.opval.value i) = some i := by
  cases hd : c.decode (c.opval.value i) with
  | none =>
    have := List.find?_eq_none.mp hd i (Instr.mem_all i)
    simp at this
  | some j => exact congrArg some (h.value_injective (Config.value_of_decode hd))

/-- An unknown opcode is the opcode value of no instruction. -/
theorem Config.decode_none {c : Config} {w : Word} (h : c.decode w = none) (i : Instr) : c.opval.value i ≠ w := by
  intro he
  have := List.find?_eq_none.mp h i (Instr.mem_all i)
  simp [he] at this

/-- The default configuration is well formed. -/
theorem Config.default_wf : Config.default.Wf := by decide

end Sys2Proof
end

