-- ==== Sys2Proof/Laws/State.lean ====
section
/-! SUPPORT. The small lemmas of State: what each update leaves in each field, so that no later proof unfolds a record update. -/

namespace Sys2Proof.Machine

variable (s : State)

@[simp] theorem State.setReg_cfg (r : Reg) (v : Word) : (s.setReg r v).cfg = s.cfg := by cases r <;> rfl
@[simp] theorem State.setReg_mem (r : Reg) (v : Word) : (s.setReg r v).mem = s.mem := by cases r <;> rfl
@[simp] theorem State.setReg_pc (r : Reg) (v : Word) : (s.setReg r v).pc = s.pc := by cases r <;> rfl
@[simp] theorem State.setReg_z (r : Reg) (v : Word) : (s.setReg r v).z = s.z := by cases r <;> rfl
@[simp] theorem State.setReg_status (r : Reg) (v : Word) : (s.setReg r v).status = s.status := by cases r <;> rfl
@[simp] theorem State.setReg_out (r : Reg) (v : Word) : (s.setReg r v).out = s.out := by cases r <;> rfl
@[simp] theorem State.setReg_inp (r : Reg) (v : Word) : (s.setReg r v).inp = s.inp := by cases r <;> rfl
@[simp] theorem State.setReg_inpClosed (r : Reg) (v : Word) : (s.setReg r v).inpClosed = s.inpClosed := by cases r <;> rfl
@[simp] theorem State.setReg_debug (r : Reg) (v : Word) : (s.setReg r v).debug = s.debug := by cases r <;> rfl
@[simp] theorem State.setReg_snaps (r : Reg) (v : Word) : (s.setReg r v).snaps = s.snaps := by cases r <;> rfl
@[simp] theorem State.setReg_hold (r : Reg) (v : Word) : (s.setReg r v).hold = s.hold := by cases r <;> rfl

@[simp] theorem State.setPc_cfg (v : Word) : (s.setPc v).cfg = s.cfg := rfl
@[simp] theorem State.setPc_mem (v : Word) : (s.setPc v).mem = s.mem := rfl
@[simp] theorem State.setPc_a (v : Word) : (s.setPc v).a = s.a := rfl
@[simp] theorem State.setPc_i (v : Word) : (s.setPc v).i = s.i := rfl
@[simp] theorem State.setPc_x (v : Word) : (s.setPc v).x = s.x := rfl
@[simp] theorem State.setPc_y (v : Word) : (s.setPc v).y = s.y := rfl
@[simp] theorem State.setPc_pc (v : Word) : (s.setPc v).pc = v := rfl
@[simp] theorem State.setPc_z (v : Word) : (s.setPc v).z = s.z := rfl
@[simp] theorem State.setPc_status (v : Word) : (s.setPc v).status = s.status := rfl
@[simp] theorem State.setPc_out (v : Word) : (s.setPc v).out = s.out := rfl
@[simp] theorem State.setPc_inp (v : Word) : (s.setPc v).inp = s.inp := rfl
@[simp] theorem State.setPc_inpClosed (v : Word) : (s.setPc v).inpClosed = s.inpClosed := rfl
@[simp] theorem State.setPc_debug (v : Word) : (s.setPc v).debug = s.debug := rfl
@[simp] theorem State.setPc_snaps (v : Word) : (s.setPc v).snaps = s.snaps := rfl
@[simp] theorem State.setPc_hold (v : Word) : (s.setPc v).hold = s.hold := rfl

@[simp] theorem State.advance_cfg : (s.advance).cfg = s.cfg := rfl
@[simp] theorem State.advance_mem : (s.advance).mem = s.mem := rfl
@[simp] theorem State.advance_a : (s.advance).a = s.a := rfl
@[simp] theorem State.advance_i : (s.advance).i = s.i := rfl
@[simp] theorem State.advance_x : (s.advance).x = s.x := rfl
@[simp] theorem State.advance_y : (s.advance).y = s.y := rfl
@[simp] theorem State.advance_pc : (s.advance).pc = s.pc + 1 := rfl
@[simp] theorem State.advance_z : (s.advance).z = s.z := rfl
@[simp] theorem State.advance_status : (s.advance).status = s.status := rfl
@[simp] theorem State.advance_out : (s.advance).out = s.out := rfl
@[simp] theorem State.advance_inp : (s.advance).inp = s.inp := rfl
@[simp] theorem State.advance_inpClosed : (s.advance).inpClosed = s.inpClosed := rfl
@[simp] theorem State.advance_debug : (s.advance).debug = s.debug := rfl
@[simp] theorem State.advance_snaps : (s.advance).snaps = s.snaps := rfl
@[simp] theorem State.advance_hold : (s.advance).hold = s.hold := rfl

@[simp] theorem State.setZ_cfg (b : Bool) : (s.setZ b).cfg = s.cfg := rfl
@[simp] theorem State.setZ_mem (b : Bool) : (s.setZ b).mem = s.mem := rfl
@[simp] theorem State.setZ_a (b : Bool) : (s.setZ b).a = s.a := rfl
@[simp] theorem State.setZ_i (b : Bool) : (s.setZ b).i = s.i := rfl
@[simp] theorem State.setZ_x (b : Bool) : (s.setZ b).x = s.x := rfl
@[simp] theorem State.setZ_y (b : Bool) : (s.setZ b).y = s.y := rfl
@[simp] theorem State.setZ_pc (b : Bool) : (s.setZ b).pc = s.pc := rfl
@[simp] theorem State.setZ_z (b : Bool) : (s.setZ b).z = b := rfl
@[simp] theorem State.setZ_status (b : Bool) : (s.setZ b).status = s.status := rfl
@[simp] theorem State.setZ_out (b : Bool) : (s.setZ b).out = s.out := rfl
@[simp] theorem State.setZ_inp (b : Bool) : (s.setZ b).inp = s.inp := rfl
@[simp] theorem State.setZ_inpClosed (b : Bool) : (s.setZ b).inpClosed = s.inpClosed := rfl
@[simp] theorem State.setZ_debug (b : Bool) : (s.setZ b).debug = s.debug := rfl
@[simp] theorem State.setZ_snaps (b : Bool) : (s.setZ b).snaps = s.snaps := rfl
@[simp] theorem State.setZ_hold (b : Bool) : (s.setZ b).hold = s.hold := rfl

@[simp] theorem State.setStatus_cfg (st : Status) : (s.setStatus st).cfg = s.cfg := rfl
@[simp] theorem State.setStatus_mem (st : Status) : (s.setStatus st).mem = s.mem := rfl
@[simp] theorem State.setStatus_a (st : Status) : (s.setStatus st).a = s.a := rfl
@[simp] theorem State.setStatus_i (st : Status) : (s.setStatus st).i = s.i := rfl
@[simp] theorem State.setStatus_x (st : Status) : (s.setStatus st).x = s.x := rfl
@[simp] theorem State.setStatus_y (st : Status) : (s.setStatus st).y = s.y := rfl
@[simp] theorem State.setStatus_pc (st : Status) : (s.setStatus st).pc = s.pc := rfl
@[simp] theorem State.setStatus_z (st : Status) : (s.setStatus st).z = s.z := rfl
@[simp] theorem State.setStatus_status (st : Status) : (s.setStatus st).status = st := rfl
@[simp] theorem State.setStatus_out (st : Status) : (s.setStatus st).out = s.out := rfl
@[simp] theorem State.setStatus_inp (st : Status) : (s.setStatus st).inp = s.inp := rfl
@[simp] theorem State.setStatus_inpClosed (st : Status) : (s.setStatus st).inpClosed = s.inpClosed := rfl
@[simp] theorem State.setStatus_debug (st : Status) : (s.setStatus st).debug = s.debug := rfl
@[simp] theorem State.setStatus_snaps (st : Status) : (s.setStatus st).snaps = s.snaps := rfl
@[simp] theorem State.setStatus_hold (st : Status) : (s.setStatus st).hold = s.hold := rfl

@[simp] theorem State.emit_cfg (v : Word) : (s.emit v).cfg = s.cfg := rfl
@[simp] theorem State.emit_mem (v : Word) : (s.emit v).mem = s.mem := rfl
@[simp] theorem State.emit_a (v : Word) : (s.emit v).a = s.a := rfl
@[simp] theorem State.emit_i (v : Word) : (s.emit v).i = s.i := rfl
@[simp] theorem State.emit_x (v : Word) : (s.emit v).x = s.x := rfl
@[simp] theorem State.emit_y (v : Word) : (s.emit v).y = s.y := rfl
@[simp] theorem State.emit_pc (v : Word) : (s.emit v).pc = s.pc := rfl
@[simp] theorem State.emit_z (v : Word) : (s.emit v).z = s.z := rfl
@[simp] theorem State.emit_status (v : Word) : (s.emit v).status = s.status := rfl
@[simp] theorem State.emit_out (v : Word) : (s.emit v).out = s.out ++ [v] := rfl
@[simp] theorem State.emit_inp (v : Word) : (s.emit v).inp = s.inp := rfl
@[simp] theorem State.emit_inpClosed (v : Word) : (s.emit v).inpClosed = s.inpClosed := rfl
@[simp] theorem State.emit_debug (v : Word) : (s.emit v).debug = s.debug := rfl
@[simp] theorem State.emit_snaps (v : Word) : (s.emit v).snaps = s.snaps := rfl
@[simp] theorem State.emit_hold (v : Word) : (s.emit v).hold = s.hold := rfl

@[simp] theorem State.raise_cfg (c : Cause) (w : Word) : (s.raise c w).cfg = s.cfg := rfl
@[simp] theorem State.raise_mem (c : Cause) (w : Word) : (s.raise c w).mem = s.mem := rfl
@[simp] theorem State.raise_a (c : Cause) (w : Word) : (s.raise c w).a = s.a := rfl
@[simp] theorem State.raise_i (c : Cause) (w : Word) : (s.raise c w).i = s.i := rfl
@[simp] theorem State.raise_x (c : Cause) (w : Word) : (s.raise c w).x = s.x := rfl
@[simp] theorem State.raise_y (c : Cause) (w : Word) : (s.raise c w).y = s.y := rfl
@[simp] theorem State.raise_pc (c : Cause) (w : Word) : (s.raise c w).pc = s.pc := rfl
@[simp] theorem State.raise_z (c : Cause) (w : Word) : (s.raise c w).z = s.z := rfl
@[simp] theorem State.raise_status (c : Cause) (w : Word) : (s.raise c w).status = .failed c w := rfl
@[simp] theorem State.raise_out (c : Cause) (w : Word) : (s.raise c w).out = s.out := rfl
@[simp] theorem State.raise_inp (c : Cause) (w : Word) : (s.raise c w).inp = s.inp := rfl
@[simp] theorem State.raise_inpClosed (c : Cause) (w : Word) : (s.raise c w).inpClosed = s.inpClosed := rfl
@[simp] theorem State.raise_debug (c : Cause) (w : Word) : (s.raise c w).debug = s.debug := rfl
@[simp] theorem State.raise_snaps (c : Cause) (w : Word) : (s.raise c w).snaps = s.snaps := rfl
@[simp] theorem State.raise_hold (c : Cause) (w : Word) : (s.raise c w).hold = s.hold := rfl

/-! The registers through `reg`, and which register `setReg` writes. -/

@[simp] theorem State.reg_A : s.reg .A = s.a := rfl
@[simp] theorem State.reg_I : s.reg .I = s.i := rfl
@[simp] theorem State.reg_X : s.reg .X = s.x := rfl
@[simp] theorem State.reg_Y : s.reg .Y = s.y := rfl

@[simp] theorem State.setReg_A (v : Word) : s.setReg .A v = { s with a := v } := rfl
@[simp] theorem State.setReg_I (v : Word) : s.setReg .I v = { s with i := v } := rfl
@[simp] theorem State.setReg_X (v : Word) : s.setReg .X v = { s with x := v } := rfl
@[simp] theorem State.setReg_Y (v : Word) : s.setReg .Y v = { s with y := v } := rfl

theorem State.reg_setReg (r q : Reg) (v : Word) : (s.setReg r v).reg q = if q = r then v else s.reg q := by
  cases r <;> cases q <;> rfl

@[simp] theorem State.reg_setPc (r : Reg) (v : Word) : (s.setPc v).reg r = s.reg r := by cases r <;> rfl
@[simp] theorem State.reg_advance (r : Reg) : s.advance.reg r = s.reg r := by cases r <;> rfl
@[simp] theorem State.reg_setZ (r : Reg) (b : Bool) : (s.setZ b).reg r = s.reg r := by cases r <;> rfl
@[simp] theorem State.reg_setStatus (r : Reg) (st : Status) : (s.setStatus st).reg r = s.reg r := by cases r <;> rfl
@[simp] theorem State.reg_emit (r : Reg) (v : Word) : (s.emit v).reg r = s.reg r := by cases r <;> rfl
@[simp] theorem State.reg_raise (r : Reg) (c : Cause) (w : Word) : (s.raise c w).reg r = s.reg r := by cases r <;> rfl

@[simp] theorem State.release_cfg (rest : List Byte) : (s.release rest).cfg = s.cfg := rfl
@[simp] theorem State.release_mem (rest : List Byte) : (s.release rest).mem = s.mem := rfl
@[simp] theorem State.release_a (rest : List Byte) : (s.release rest).a = s.a := rfl
@[simp] theorem State.release_i (rest : List Byte) : (s.release rest).i = s.i := rfl
@[simp] theorem State.release_x (rest : List Byte) : (s.release rest).x = s.x := rfl
@[simp] theorem State.release_y (rest : List Byte) : (s.release rest).y = s.y := rfl
@[simp] theorem State.release_pc (rest : List Byte) : (s.release rest).pc = s.pc := rfl
@[simp] theorem State.release_z (rest : List Byte) : (s.release rest).z = s.z := rfl
@[simp] theorem State.release_status (rest : List Byte) : (s.release rest).status = s.status := rfl
@[simp] theorem State.release_out (rest : List Byte) : (s.release rest).out = s.out := rfl
@[simp] theorem State.release_inpClosed (rest : List Byte) : (s.release rest).inpClosed = s.inpClosed := rfl
@[simp] theorem State.release_debug (rest : List Byte) : (s.release rest).debug = s.debug := rfl
@[simp] theorem State.release_snaps (rest : List Byte) : (s.release rest).snaps = s.snaps := rfl
@[simp] theorem State.release_inp (rest : List Byte) : (s.release rest).inp = rest := rfl
@[simp] theorem State.release_hold (rest : List Byte) : (s.release rest).hold = false := rfl

@[simp] theorem State.renderSnapshot_cfg : s.renderSnapshot.cfg = s.cfg := by
  unfold State.renderSnapshot; split <;> rfl
@[simp] theorem State.renderSnapshot_mem : s.renderSnapshot.mem = s.mem := by
  unfold State.renderSnapshot; split <;> rfl
@[simp] theorem State.renderSnapshot_a : s.renderSnapshot.a = s.a := by
  unfold State.renderSnapshot; split <;> rfl
@[simp] theorem State.renderSnapshot_i : s.renderSnapshot.i = s.i := by
  unfold State.renderSnapshot; split <;> rfl
@[simp] theorem State.renderSnapshot_x : s.renderSnapshot.x = s.x := by
  unfold State.renderSnapshot; split <;> rfl
@[simp] theorem State.renderSnapshot_y : s.renderSnapshot.y = s.y := by
  unfold State.renderSnapshot; split <;> rfl
@[simp] theorem State.renderSnapshot_pc : s.renderSnapshot.pc = s.pc := by
  unfold State.renderSnapshot; split <;> rfl
@[simp] theorem State.renderSnapshot_z : s.renderSnapshot.z = s.z := by
  unfold State.renderSnapshot; split <;> rfl
@[simp] theorem State.renderSnapshot_status : s.renderSnapshot.status = s.status := by
  unfold State.renderSnapshot; split <;> rfl
@[simp] theorem State.renderSnapshot_out : s.renderSnapshot.out = s.out := by
  unfold State.renderSnapshot; split <;> rfl
@[simp] theorem State.renderSnapshot_inp : s.renderSnapshot.inp = s.inp := by
  unfold State.renderSnapshot; split <;> rfl
@[simp] theorem State.renderSnapshot_inpClosed : s.renderSnapshot.inpClosed = s.inpClosed := by
  unfold State.renderSnapshot; split <;> rfl
@[simp] theorem State.renderSnapshot_debug : s.renderSnapshot.debug = s.debug := by
  unfold State.renderSnapshot; split <;> rfl
@[simp] theorem State.renderSnapshot_snaps :
    s.renderSnapshot.snaps = if s.hold then s.snaps else s.snaps ++ [s.snapshot] := by
  unfold State.renderSnapshot; split <;> rfl
@[simp] theorem State.renderSnapshot_hold : s.renderSnapshot.hold = true := by
  unfold State.renderSnapshot; split
  · assumption
  · rfl

end Sys2Proof.Machine
end

