-- ==== Sys2Proof/Laws/Memory.lean ====
section
/-! SUPPORT. Memory: a read after a write, and that every memory operation keeps the canonical form. -/

namespace Sys2Proof.Machine

/-- Every entry stands above an address. -/
def Memory.Above (b : Nat) (m : Memory) : Prop := ∀ p ∈ m, b < p.1

@[simp] theorem Memory.wf_nil : Memory.wf [] := ⟨List.Pairwise.nil, by simp⟩

theorem Memory.wf_cons {b : Nat} {w : Word} {m : Memory} :
    Memory.wf ((b, w) :: m) ↔ w ≠ Memory.unlisted ∧ Memory.Above b m ∧ Memory.wf m := by
  constructor
  · rintro ⟨hp, hz⟩
    obtain ⟨h1, h2⟩ := List.pairwise_cons.mp hp
    exact ⟨hz (b, w) (by simp), h1, h2, fun p h => hz p (by simp [h])⟩
  · rintro ⟨hw, ha, hp, hz⟩
    refine ⟨List.pairwise_cons.mpr ⟨ha, hp⟩, fun p h => ?_⟩
    rcases List.mem_cons.mp h with rfl | h
    · exact hw
    · exact hz p h

/-- Below every entry an address reads as one with no entry. -/
theorem Memory.read_above {a b : Nat} (hab : a ≤ b) : ∀ {m : Memory}, Memory.Above b m → m.read a = Memory.unlisted
  | [], _ => rfl
  | (c, w) :: m, h => by
    have hc : b < c := h (c, w) (by simp)
    have hne : a ≠ c := by omega
    simp only [Memory.read, if_neg hne]
    exact Memory.read_above hab fun p hp => h p (by simp [hp])

/-- A write reads back at its own address and leaves every other address alone. -/
theorem Memory.read_write (a b : Nat) (v : Word) :
    ∀ m : Memory, m.wf → (m.write a v).read b = if b = a then v else m.read b
  | [], _ => by
    by_cases hv : v = Memory.unlisted <;> simp [Memory.write, Memory.read, hv]
  | (c, w) :: m, h => by
    obtain ⟨_, habove, hm⟩ := Memory.wf_cons.mp h
    have ih := Memory.read_write a b v m hm
    rcases Nat.lt_trichotomy a c with hlt | heq | hgt
    · have hread : Memory.read m a = Memory.unlisted := Memory.read_above (b := c) (by omega) habove
      by_cases hv : v = Memory.unlisted
      · simp only [Memory.write, if_pos hlt, if_pos hv, Memory.read]
        split <;> split <;> first | rfl | omega | simp_all
      · simp [Memory.write, hlt, hv, Memory.read]
    · subst heq
      have hread : Memory.read m a = Memory.unlisted := Memory.read_above (Nat.le_refl a) habove
      by_cases hv : v = Memory.unlisted
      · simp only [Memory.write, Nat.lt_irrefl, if_false, if_pos hv, if_true, Memory.read]
        split <;> simp_all
      · simp only [Memory.write, Nat.lt_irrefl, if_false, if_neg hv, if_true, Memory.read]
        split <;> simp_all
    · simp only [Memory.write, if_neg (show ¬ a < c by omega), if_neg (show ¬ a = c by omega), Memory.read, ih]
      split <;> split <;> first | rfl | omega

/-- Every entry after a write is an old one or the one written. -/
theorem Memory.mem_write {a : Nat} {v : Word} {p : Nat × Word} :
    ∀ {m : Memory}, p ∈ m.write a v → p ∈ m ∨ p = (a, v)
  | [], h => by
    simp only [Memory.write] at h
    split at h <;> simp_all
  | (c, w) :: m, h => by
    simp only [Memory.write] at h
    have ih := @Memory.mem_write a v p m
    split at h <;> [split at h; split at h <;> [split at h; skip]] <;> simp_all <;> tauto

/-- Every write keeps the canonical form. -/
theorem Memory.write_wf (a : Nat) (v : Word) : ∀ m : Memory, m.wf → (m.write a v).wf
  | [], _ => by
    by_cases hv : v = Memory.unlisted
    · rw [Memory.write, if_pos hv]
      exact Memory.wf_nil
    · simp only [Memory.write, if_neg hv]
      exact Memory.wf_cons.mpr ⟨hv, by simp [Memory.Above], Memory.wf_nil⟩
  | (c, w) :: m, h => by
    obtain ⟨hw, habove, hm⟩ := Memory.wf_cons.mp h
    have ih := Memory.write_wf a v m hm
    rcases Nat.lt_trichotomy a c with hlt | heq | hgt
    · by_cases hv : v = Memory.unlisted
      · simpa [Memory.write, hlt, hv] using h
      · simp only [Memory.write, if_pos hlt, if_neg hv]
        refine Memory.wf_cons.mpr ⟨hv, fun p hp => ?_, h⟩
        rcases List.mem_cons.mp hp with rfl | hp
        · exact hlt
        · exact Nat.lt_trans hlt (habove p hp)
    · subst heq
      by_cases hv : v = Memory.unlisted
      · simpa [Memory.write, hv] using hm
      · simp only [Memory.write, Nat.lt_irrefl, if_false, if_true, if_neg hv]
        exact Memory.wf_cons.mpr ⟨hv, habove, hm⟩
    · simp only [Memory.write, if_neg (show ¬ a < c by omega), if_neg (show ¬ a = c by omega)]
      refine Memory.wf_cons.mpr ⟨hw, fun p hp => ?_, ih⟩
      rcases Memory.mem_write hp with hp | rfl
      · exact habove p hp
      · exact hgt

/-- MemWrite (20_memory R56) keeps the canonical form. -/
theorem State.memWrite_wf (s : State) (a : Nat) (v : Word) (h : s.mem.wf) : (s.memWrite a v).mem.wf := by
  unfold State.memWrite
  split
  · exact Memory.write_wf a v s.mem h
  · exact h

/-- Writing consecutive Words changes memory and nothing else. -/
theorem State.writeWords_eq : ∀ (ws : List Word) (s : State) (a : Nat),
    s.writeWords a ws = { s with mem := (s.writeWords a ws).mem }
  | [], _, _ => rfl
  | w :: ws, s, a => by
    have h := State.writeWords_eq ws (s.memWrite a w) (a + 1)
    rw [State.writeWords, h]
    unfold State.memWrite
    split <;> rfl

/-- Writing consecutive Words keeps the canonical form. -/
theorem State.writeWords_wf : ∀ (ws : List Word) (s : State) (a : Nat), s.mem.wf → (s.writeWords a ws).mem.wf
  | [], _, _, h => h
  | w :: ws, s, a, h => State.writeWords_wf ws (s.memWrite a w) (a + 1) (State.memWrite_wf s a w h)

@[simp] theorem State.memWrite_cfg (s : State) (a : Nat) (v : Word) : (s.memWrite a v).cfg = s.cfg := by
  unfold State.memWrite
  split <;> rfl

/-- MemWrite keeps every entry inside memory (20_memory R52, R56). -/
theorem State.memWrite_inside (s : State) (a : Nat) (v : Word) (h : ∀ p ∈ s.mem, p.1 < s.cfg.memSize) :
    ∀ p ∈ (s.memWrite a v).mem, p.1 < s.cfg.memSize := by
  intro p hp
  unfold State.memWrite at hp
  split at hp
  · rcases Memory.mem_write hp with hp | rfl
    · exact h p hp
    · assumption
  · exact h p hp

/-- Writing consecutive Words keeps every entry inside memory. -/
theorem State.writeWords_inside : ∀ (ws : List Word) (s : State) (a : Nat), (∀ p ∈ s.mem, p.1 < s.cfg.memSize) →
    ∀ p ∈ (s.writeWords a ws).mem, p.1 < s.cfg.memSize
  | [], _, _, h => h
  | w :: ws, s, a, h => by
    have ih := State.writeWords_inside ws (s.memWrite a w) (a + 1)
    rw [State.memWrite_cfg] at ih
    exact ih (State.memWrite_inside s a w h)

/-- MemWrite reads back at its own address, inside memory, and leaves every other address alone. -/
theorem State.memWrite_read (s : State) (a b : Nat) (v : Word) (h : s.mem.wf) :
    Memory.read (s.memWrite a v).mem b = if b = a ∧ a < s.cfg.memSize then v else Memory.read s.mem b := by
  unfold State.memWrite
  by_cases hl : a < s.cfg.memSize
  · simp [hl, Memory.read_write a b v s.mem h]
  · simp [hl]

/-- Memory after Create has the canonical form. -/
theorem State.reset_mem_wf : State.reset.mem.wf := Memory.wf_nil

/-- Every address of a fresh memory reads 0. -/
theorem State.reset_mem_read (a : Nat) : State.reset.mem.read a = 0 := rfl

end Sys2Proof.Machine
end

