-- ==== Sys2Proof/Laws/Ops.lean ====
section
/-! SUPPORT. What each shared operation can do, said once: cited instead of unfolding it. -/

namespace Sys2Proof.Machine

variable {s t : State}

/-- A read inside memory gives the Word there (20_memory R53). -/
theorem State.memRead_of_lt {a : Word} (h : a.toNat < s.cfg.memSize) : s.memRead a = some (s.mem.read a.toNat) := if_pos h

/-- A read outside memory gives nothing (20_memory R53). -/
theorem State.memRead_of_le {a : Word} (h : s.cfg.memSize ≤ a.toNat) : s.memRead a = none := if_neg (by omega)

/-- A read followed by the rest of an instruction: inside memory the rest runs on the Word there. -/
theorem State.withRead_of_lt {a : Word} {f : Word → Result} (h : a.toNat < s.cfg.memSize) :
    s.withRead a f = f (s.mem.read a.toNat) := by
  simp [State.withRead, State.memRead_of_lt h]

/-- A read outside memory raises OutOfRange and stops the instruction there. -/
theorem State.withRead_of_le {a : Word} {f : Word → Result} (h : s.cfg.memSize ≤ a.toNat) :
    s.withRead a f = .next (s.raise .outOfRange a) := by
  simp [State.withRead, State.memRead_of_le h]

/-- If a read and the rest answer a next state, either the read was inside memory and the rest answered it, or OutOfRange was raised. -/
theorem State.withRead_cases {a : Word} {f : Word → Result} (h : s.withRead a f = .next t) :
    (a.toNat < s.cfg.memSize ∧ f (s.mem.read a.toNat) = .next t) ∨
      (s.cfg.memSize ≤ a.toNat ∧ t = s.raise .outOfRange a) := by
  rcases Nat.lt_or_ge a.toNat s.cfg.memSize with hl | hg
  · exact .inl ⟨hl, by rwa [State.withRead_of_lt hl] at h⟩
  · refine .inr ⟨hg, ?_⟩
    rw [State.withRead_of_le hg] at h
    cases h
    rfl

/-- A fetch inside memory: the rest runs on the Word at pc, with pc moved by one (20_memory R54). -/
theorem State.withFetch_of_lt {f : Word → State → Result} (h : s.pc.toNat < s.cfg.memSize) :
    s.withFetch f = f (s.mem.read s.pc.toNat) s.advance := State.withRead_of_lt h

/-- A fetch outside memory raises OutOfRange(pc) and leaves pc (20_memory R54). -/
theorem State.withFetch_of_le {f : Word → State → Result} (h : s.cfg.memSize ≤ s.pc.toNat) :
    s.withFetch f = .next (s.raise .outOfRange s.pc) := State.withRead_of_le h

/-- If a fetch and the rest answer a next state, one of the two cases holds. -/
theorem State.withFetch_cases {f : Word → State → Result} (h : s.withFetch f = .next t) :
    (s.pc.toNat < s.cfg.memSize ∧ f (s.mem.read s.pc.toNat) s.advance = .next t) ∨
      (s.cfg.memSize ≤ s.pc.toNat ∧ t = s.raise .outOfRange s.pc) := State.withRead_cases h

/-- An operand inside memory (30_encoding R83). -/
theorem State.withOperand_of_lt {f : Word → State → Result} (h : s.pc.toNat < s.cfg.memSize) :
    s.withOperand f = f (s.mem.read s.pc.toNat) s.advance := State.withFetch_of_lt h

/-- An operand outside memory. -/
theorem State.withOperand_of_le {f : Word → State → Result} (h : s.cfg.memSize ≤ s.pc.toNat) :
    s.withOperand f = .next (s.raise .outOfRange s.pc) := State.withFetch_of_le h

/-- If an operand fetch and the rest answer a next state, one of the two cases holds. -/
theorem State.withOperand_cases {f : Word → State → Result} (h : s.withOperand f = .next t) :
    (s.pc.toNat < s.cfg.memSize ∧ f (s.mem.read s.pc.toNat) s.advance = .next t) ∨
      (s.cfg.memSize ≤ s.pc.toNat ∧ t = s.raise .outOfRange s.pc) := State.withFetch_cases h

/-- Everything a jump to the operand can do (43_control_transfer R160). -/
theorem State.jumpToOperand_cases (h : s.jumpToOperand = .next t) :
    (s.pc.toNat < s.cfg.memSize ∧ t = s.setPc (s.mem.read s.pc.toNat)) ∨
      (s.cfg.memSize ≤ s.pc.toNat ∧ t = s.raise .outOfRange s.pc) := by
  rcases State.withOperand_cases h with ⟨hl, h⟩ | h
  · cases h
    exact .inl ⟨hl, rfl⟩
  · exact .inr h

/-- Everything a conditional jump can do (43_control_transfer R161, R165). -/
theorem State.branch_cases {taken : Bool} (h : s.branch taken = .next t) :
    (taken = true ∧ s.pc.toNat < s.cfg.memSize ∧ t = s.setPc (s.mem.read s.pc.toNat)) ∨
      (taken = true ∧ s.cfg.memSize ≤ s.pc.toNat ∧ t = s.raise .outOfRange s.pc) ∨
      (taken = false ∧ t = s.advance) := by
  cases taken with
  | true =>
    rcases State.jumpToOperand_cases h with h | h
    · exact .inl ⟨rfl, h⟩
    · exact .inr (.inl ⟨rfl, h⟩)
  | false =>
    cases h
    exact .inr (.inr ⟨rfl, rfl⟩)

/-- Raising changes the status and nothing else (60_exceptions R186). -/
theorem State.raise_eq (c : Cause) (w : Word) : s.raise c w = { s with status := .failed c w } := rfl

/-- With Debug false the gate before the fetch does nothing (10_state R42). -/
theorem State.debugGate_off (h : s.debug = false) : s.debugGate = .proceed s := by
  simp [State.debugGate, h]

/-- Everything the gate can do. -/
theorem State.debugGate_cases :
    (s.debug = false ∧ s.debugGate = .proceed s) ∨
      (s.debug = true ∧ ∃ rest, takeLine s.inp = some rest ∧ s.debugGate = .proceed (s.renderSnapshot.release rest)) ∨
      (s.debug = true ∧ takeLine s.inp = none ∧ s.inpClosed = false ∧ s.debugGate = .wait s.renderSnapshot) ∨
      (s.debug = true ∧ takeLine s.inp = none ∧ s.inpClosed = true ∧ s.debugGate = .ended) := by
  cases hd : s.debug with
  | false => exact .inl ⟨rfl, State.debugGate_off hd⟩
  | true =>
    cases ht : takeLine s.inp with
    | some rest => exact .inr (.inl ⟨rfl, rest, rfl, by simp [State.debugGate, hd, ht]⟩)
    | none =>
      cases hc : s.inpClosed with
      | false => exact .inr (.inr (.inl ⟨rfl, rfl, rfl, by simp [State.debugGate, hd, ht, hc]⟩))
      | true => exact .inr (.inr (.inr ⟨rfl, rfl, rfl, by simp [State.debugGate, hd, ht, hc]⟩))

end Sys2Proof.Machine
end

