-- ==== Sys2Proof/Laws/Step.lean ====
section
/-! SUPPORT. What one step can do, said once. -/

namespace Sys2Proof.Machine

variable {s t : State}

/-- If the instruction cycle answers a next state (40_system R120): the opcode fetch failed, the opcode was unknown, or the instruction
executed. -/
theorem State.cycle_cases (h : s.cycle = .next t) :
    (s.cfg.memSize ≤ s.pc.toNat ∧ t = s.raise .outOfRange s.pc) ∨
      (s.pc.toNat < s.cfg.memSize ∧ s.cfg.decode (s.mem.read s.pc.toNat) = none ∧
        t = s.advance.raise .unknownOpcode (s.mem.read s.pc.toNat)) ∨
      (s.pc.toNat < s.cfg.memSize ∧ ∃ i, s.cfg.decode (s.mem.read s.pc.toNat) = some i ∧ exec i s.advance = .next t) := by
  rcases State.withFetch_cases h with ⟨hl, h⟩ | h
  · simp only [State.advance_cfg] at h
    cases hd : s.cfg.decode (s.mem.read s.pc.toNat) with
    | none =>
      simp only [hd] at h
      cases h
      exact .inr (.inl ⟨hl, rfl, rfl⟩)
    | some i =>
      simp only [hd] at h
      exact .inr (.inr ⟨hl, i, rfl, h⟩)
  · exact .inl h

/-- A machine that is not running stays as it is (log entry 6). -/
theorem step_of_ended (h : s.Ended) : step s = .next s := if_neg h

/-- A running machine with Debug false performs the instruction cycle. -/
theorem step_of_running (h : s.Running) : step s = s.cycle := by
  simp [step, State.iterate, h.1, State.debugGate_off h.2]

/-- If a step answers a next state: the machine was not running, or waits for a line in debug mode, or the gate let it on and the cycle
answered. -/
theorem step_cases (h : step s = .next t) :
    (s.Ended ∧ t = s) ∨
      (s.status = .running ∧ s.debugGate = .wait t) ∨
      (s.status = .running ∧ ∃ u, s.debugGate = .proceed u ∧ u.cycle = .next t) := by
  by_cases hr : s.status = .running
  · simp only [step, State.iterate, if_pos hr] at h
    cases hg : s.debugGate with
    | proceed u => exact .inr (.inr ⟨hr, u, rfl, by simpa [hg] using h⟩)
    | wait u =>
      simp only [hg] at h
      cases h
      exact .inr (.inl ⟨hr, rfl⟩)
    | ended => simp [hg] at h
  · rw [step_of_ended hr] at h
    cases h
    exact .inl ⟨hr, rfl⟩

end Sys2Proof.Machine
end

