-- ==== Sys2Proof/Laws/Exec.lean ====
section
/-! SUPPORT. Everything executing an instruction can do, said once: which instruction, under which condition, which next state. -/

namespace Sys2Proof.Machine

variable {s t : State}

/-- What executing an instruction whose operand is inside memory, or that has none to fetch, does to the state: `Effect i s t` reads
"i, executed in s without raising, gives t" (40_system to 44_load). -/
def Effect (s t : State) : Instr → Prop
  | .halt => t = s.setStatus .halted
  | .noop => t = s
  | .inca => t = s.setReg .A (s.a + 1)
  | .deca => t = s.setReg .A (s.a - 1)
  | .seta => t = s.advance.setReg .A (Memory.read s.mem s.pc.toNat)
  | .seti => t = s.advance.setReg .I (Memory.read s.mem s.pc.toNat)
  | .deci => t = s.setReg .I (s.i - 1)
  | .jinz => (s.i ≠ 0 ∧ t = s.setPc (Memory.read s.mem s.pc.toNat)) ∨ (s.i = 0 ∧ t = s.advance)
  | .mvay => t = s.setReg .Y s.a
  | .adxy => t = s.setReg .Y (s.y + s.x)
  | .mvax => t = s.setReg .X s.a
  | .mvya => t = s.setReg .A s.y
  | .outa => t = s.emit s.a
  | .jump => t = s.setPc (Memory.read s.mem s.pc.toNat)
  | .inci => t = s.setReg .I (s.i + 1)
  | .ldai => t = s.advance.setReg .A (Memory.read s.mem (s.i + Memory.read s.mem s.pc.toNat).toNat)
  | .cmpi => t = s.advance.setZ (s.i == Memory.read s.mem s.pc.toNat)
  | .jneq => (s.z = false ∧ t = s.setPc (Memory.read s.mem s.pc.toNat)) ∨ (s.z = true ∧ t = s.advance)

/-- If executing an instruction answers a next state, it is the instruction's effect, or the operand fetch raised, or LDAI's data read
raised. -/
theorem exec_cases {i : Instr} (h : exec i s = .next t) :
    Effect s t i ∨ (s.cfg.memSize ≤ s.pc.toNat ∧ t = s.raise .outOfRange s.pc) ∨
      (i = .ldai ∧ s.pc.toNat < s.cfg.memSize ∧
        s.cfg.memSize ≤ (s.i + Memory.read s.mem s.pc.toNat).toNat ∧
        t = s.advance.raise .outOfRange (s.i + Memory.read s.mem s.pc.toNat)) := by
  cases i <;> simp only [exec] at h
  case seta | seti | cmpi =>
    rcases State.withOperand_cases h with ⟨-, h⟩ | h
    · cases h
      exact .inl rfl
    · exact .inr (.inl h)
  case jump =>
    rcases State.jumpToOperand_cases h with h | h
    · exact .inl h.2
    · exact .inr (.inl h)
  case jinz =>
    rcases State.branch_cases h with ⟨hi, -, ht⟩ | ⟨-, h⟩ | ⟨hi, ht⟩
    · exact .inl (.inl ⟨by simpa [State.indexNotZero] using hi, ht⟩)
    · exact .inr (.inl h)
    · exact .inl (.inr ⟨by simpa [State.indexNotZero] using hi, ht⟩)
  case jneq =>
    rcases State.branch_cases h with ⟨hz, -, ht⟩ | ⟨-, h⟩ | ⟨hz, ht⟩
    · exact .inl (.inl ⟨by simpa [State.notEqual] using hz, ht⟩)
    · exact .inr (.inl h)
    · exact .inl (.inr ⟨by simpa [State.notEqual] using hz, ht⟩)
  case ldai =>
    rcases State.withOperand_cases h with ⟨hl, h⟩ | h
    · rcases State.withRead_cases h with ⟨-, h⟩ | ⟨hg, ht⟩
      · cases h
        exact .inl rfl
      · exact .inr (.inr ⟨rfl, hl, hg, ht⟩)
    · exact .inr (.inl h)
  all_goals
    cases h
    exact .inl rfl

/-- What no instruction changes: the parameters, memory, IN, the Debug switch, the snapshots and the hold. -/
theorem exec_keeps {i : Instr} (h : exec i s = .next t) :
    t.cfg = s.cfg ∧ t.mem = s.mem ∧ t.inp = s.inp ∧ t.inpClosed = s.inpClosed ∧ t.debug = s.debug ∧ t.snaps = s.snaps ∧
      t.hold = s.hold := by
  rcases exec_cases h with h | ⟨-, rfl⟩ | ⟨-, -, -, rfl⟩
  · cases i <;> simp only [Effect] at h <;> first
      | (subst h; simp)
      | (rcases h with ⟨-, rfl⟩ | ⟨-, rfl⟩ <;> simp)
  · simp
  · simp

end Sys2Proof.Machine
end

