-- ==== Sys2Proof/Laws/PerInstr.lean ====
section
/-! SUPPORT. The per-instruction family `Opcode`: for each instruction, its opcode value and no other Word decodes to it under every OPVAL
that tells the opcodes apart (30_encoding R86), and its default value is its place in the enumeration of 00_scope R2 (30_encoding R84,
decision D1). -/

namespace Sys2Proof.Laws.Opcode

/-- The statement of the family about one instruction. -/
def Statement (i : Instr) : Prop :=
  (∀ c : Config, c.Wf → ∀ w : Word, c.decode w = some i ↔ w = c.opval.value i) ∧
    Instr.all[(OpVal.default.value i).toNat]? = some i

/-- The first half holds for every instruction alike. -/
theorem of_place {i : Instr} (h : Instr.all[(OpVal.default.value i).toNat]? = some i) : Statement i :=
  ⟨fun _ hc _ => ⟨fun hd => (Config.value_of_decode hd).symm, fun hw => hw ▸ hc.decode_value i⟩, h⟩

theorem halt : Statement .halt := of_place rfl
theorem noop : Statement .noop := of_place rfl
theorem inca : Statement .inca := of_place rfl
theorem deca : Statement .deca := of_place rfl
theorem seta : Statement .seta := of_place rfl
theorem seti : Statement .seti := of_place rfl
theorem deci : Statement .deci := of_place rfl
theorem jinz : Statement .jinz := of_place rfl
theorem mvay : Statement .mvay := of_place rfl
theorem adxy : Statement .adxy := of_place rfl
theorem mvax : Statement .mvax := of_place rfl
theorem mvya : Statement .mvya := of_place rfl
theorem outa : Statement .outa := of_place rfl
theorem jump : Statement .jump := of_place rfl
theorem inci : Statement .inci := of_place rfl
theorem ldai : Statement .ldai := of_place rfl
theorem cmpi : Statement .cmpi := of_place rfl
theorem jneq : Statement .jneq := of_place rfl

end Sys2Proof.Laws.Opcode
end

