-- ==== Sys2Proof/Laws/Ports.lean ====
section
/-! SUPPORT. What the debug strobe and the host's stream can do, said once. -/

namespace Sys2Proof.Machine

variable {s t : State}

/-- When the machine is held (60_exceptions R202). -/
theorem State.held_iff : s.held = true ↔ s.status = .running ∧ s.debug = true ∧ s.hold = true := by
  simp [State.held, and_assoc]

/-- Everything the strobe `dbg_step` can do (70_reset R230): the held cycle is performed, or nothing. -/
theorem State.dbgStepPort_cases (h : s.dbgStepPort = .next t) :
    (s.held = true ∧ (s.release s.inp).cycle = .next t) ∨ (s.held = false ∧ t = s) := by
  unfold State.dbgStepPort at h
  cases hh : s.held with
  | true => exact .inl ⟨rfl, by simpa [hh] using h⟩
  | false =>
    simp only [hh] at h
    cases h
    exact .inr ⟨rfl, rfl⟩

/-- One more snapshot line, standing after the first `k` Words: its text follows what stands there already. -/
theorem snapshotBytes_append (snaps : List Snapshot) (n : Snapshot) (k : Nat) :
    snapshotBytes (snaps ++ [n]) k =
      snapshotBytes snaps k ++ if n.outPos = k then Config.snapshotText snaps.length n.toSnapshotLine else [] := by
  simp [snapshotBytes, List.zipIdx_append]

/-- No line stands behind a position that all of them stand before. -/
theorem snapshotBytes_of_lt {snaps : List Snapshot} {k : Nat} (h : ∀ n ∈ snaps, n.outPos < k) : snapshotBytes snaps k = [] := by
  simp only [snapshotBytes, List.flatMap_eq_nil_iff]
  intro p hp
  have := h p.1 (by simpa using List.fst_mem_of_mem_zipIdx hp)
  exact if_neg (by omega)

end Sys2Proof.Machine
end

