-- ==== Sys2Proof/Tests/Slice0.lean ====
section
/-! SUPPORT. The model's own tests (expected results from spec 95_test_vectors and the rules, never from the model), the WellFormed smoke
test, and for each statement with hypotheses a witness that meets them. -/

namespace Sys2Proof.Tests

open Sys2Proof.Machine

/-! Helpers. -/

/-- `M` of 95_test_vectors. -/
def M : Word := 18446744073709551615

/-- A fresh machine in a run, with the given Words from an address upward and pc there. -/
def running (addr : Nat) (ws : List Word) : State :=
  { State.reset.writeWords addr ws with pc := BitVec.ofNat 64 addr, status := .running }

/-- Does a step answer a next state with the property? -/
def gives (r : Result) (p : State → Bool) : Bool :=
  match r with
  | .next t => p t
  | .fault _ => false
  | .refused _ => false

/-- An OPVAL other than the default: every value 100 more. -/
def shiftedOpVal : OpVal where
  halt := 100
  noop := 101
  inca := 102
  deca := 103
  seta := 104
  seti := 105
  deci := 106
  jinz := 107
  mvay := 108
  adxy := 109
  mvax := 110
  mvya := 111
  outa := 112
  jump := 113
  inci := 114
  ldai := 115
  cmpi := 116
  jneq := 117

/-- A machine of 1024 Words with that OPVAL, in a run, with the given Words at address 100. -/
def shifted (ws : List Word) : State := { running 100 ws with cfg := ⟨1024, shiftedOpVal⟩ }

theorem shifted_wf : (⟨1024, shiftedOpVal⟩ : Config).Wf := by decide

/-! WellFormed: an ill-formed term for each check, which the check refuses. -/

theorem test_wf_refuses_missing_operand : ¬ Code.Wf ⟨.seta, none⟩ := by decide
theorem test_wf_refuses_extra_operand : ¬ Code.Wf ⟨.inca, some 5⟩ := by decide
theorem test_wf_refuses_empty_memory : ¬ Config.Wf ⟨0, OpVal.default⟩ := by decide
theorem test_wf_refuses_too_large_memory : ¬ Config.Wf ⟨2 ^ 64 - 1, OpVal.default⟩ := by decide
theorem test_wf_refuses_equal_opcodes : ¬ Config.Wf ⟨1024, { OpVal.default with noop := 0 }⟩ := by decide
theorem test_wf_refuses_long_program : ¬ Program.Fits [1, 2, 3] ⟨2, OpVal.default⟩ := by decide
theorem test_memory_wf_refuses_disorder : ¬ Memory.wf [(2, 1), (1, 1)] := by decide
theorem test_memory_wf_refuses_zero_entry : ¬ Memory.wf [(2, 0)] := by decide
theorem test_wf_accepts_bounds : Config.Wf ⟨1, OpVal.default⟩ ∧ Config.Wf ⟨2 ^ 64 - 2, OpVal.default⟩ := by decide

/-! Decoding: every row of 30_encoding R84, its word written out bit by bit from the table (R81: 64 bits, bit 63 first). -/

theorem test_decode_halt :
    Config.default.decodeCode [0b0000000000000000000000000000000000000000000000000000000000000000] = .code ⟨.halt, none⟩ [] := by decide
theorem test_decode_noop :
    Config.default.decodeCode [0b0000000000000000000000000000000000000000000000000000000000000001] = .code ⟨.noop, none⟩ [] := by decide
theorem test_decode_inca :
    Config.default.decodeCode [0b0000000000000000000000000000000000000000000000000000000000000010] = .code ⟨.inca, none⟩ [] := by decide
theorem test_decode_deca :
    Config.default.decodeCode [0b0000000000000000000000000000000000000000000000000000000000000011] = .code ⟨.deca, none⟩ [] := by decide
theorem test_decode_seta :
    Config.default.decodeCode [0b0000000000000000000000000000000000000000000000000000000000000100, 72] = .code ⟨.seta, some 72⟩ [] := by decide
theorem test_decode_seti :
    Config.default.decodeCode [0b0000000000000000000000000000000000000000000000000000000000000101, 72] = .code ⟨.seti, some 72⟩ [] := by decide
theorem test_decode_deci :
    Config.default.decodeCode [0b0000000000000000000000000000000000000000000000000000000000000110] = .code ⟨.deci, none⟩ [] := by decide
theorem test_decode_jinz :
    Config.default.decodeCode [0b0000000000000000000000000000000000000000000000000000000000000111, 72] = .code ⟨.jinz, some 72⟩ [] := by decide
theorem test_decode_mvay :
    Config.default.decodeCode [0b0000000000000000000000000000000000000000000000000000000000001000] = .code ⟨.mvay, none⟩ [] := by decide
theorem test_decode_adxy :
    Config.default.decodeCode [0b0000000000000000000000000000000000000000000000000000000000001001] = .code ⟨.adxy, none⟩ [] := by decide
theorem test_decode_mvax :
    Config.default.decodeCode [0b0000000000000000000000000000000000000000000000000000000000001010] = .code ⟨.mvax, none⟩ [] := by decide
theorem test_decode_mvya :
    Config.default.decodeCode [0b0000000000000000000000000000000000000000000000000000000000001011] = .code ⟨.mvya, none⟩ [] := by decide
theorem test_decode_outa :
    Config.default.decodeCode [0b0000000000000000000000000000000000000000000000000000000000001100] = .code ⟨.outa, none⟩ [] := by decide
theorem test_decode_jump :
    Config.default.decodeCode [0b0000000000000000000000000000000000000000000000000000000000001101, 72] = .code ⟨.jump, some 72⟩ [] := by decide
theorem test_decode_inci :
    Config.default.decodeCode [0b0000000000000000000000000000000000000000000000000000000000001110] = .code ⟨.inci, none⟩ [] := by decide
theorem test_decode_ldai :
    Config.default.decodeCode [0b0000000000000000000000000000000000000000000000000000000000001111, 72] = .code ⟨.ldai, some 72⟩ [] := by decide
theorem test_decode_cmpi :
    Config.default.decodeCode [0b0000000000000000000000000000000000000000000000000000000000010000, 72] = .code ⟨.cmpi, some 72⟩ [] := by decide
theorem test_decode_jneq :
    Config.default.decodeCode [0b0000000000000000000000000000000000000000000000000000000000010001, 72] = .code ⟨.jneq, some 72⟩ [] := by decide

/-- All 64 bits are compared (R86): one high bit makes an opcode unknown. -/
theorem test_decode_compares_high_bits : Config.default.decode 9223372036854775810 = none := by decide
theorem test_decode_first_unknown : Config.default.decode 18 = none ∧ Config.default.decode M = none := by decide
theorem test_decode_other_opval : (⟨1024, shiftedOpVal⟩ : Config).decode 102 = some .inca := by decide
theorem test_encode_seta : Config.default.encode ⟨.seta, some 72⟩ = [4, 72] := by decide
theorem test_table_word_second_word : tableWords 128 (72 * 2 ^ 64 + 4) = [4, 72] := by decide
theorem test_decode_table_word : decodeTableWord 64 17 = some .jneq ∧ decodeTableWord 128 (72 * 2 ^ 64 + 4) = some .seta := by decide
theorem test_placed_word_runs :
    gives (step (State.reset.withFetchWord 64 2)) (fun t => t.a == 1 && t.pc == 1 && t.status == .running) = true := by decide
theorem test_placed_operand_is_zero :
    gives (step ({ State.reset with a := 9 }.withFetchWord 64 4)) (fun t => t.a == 0 && t.pc == 2) = true := by decide

/-! Single steps: the vectors of 95_test_vectors part 2, named there. -/

/-- S1. -/
theorem test_halt_s1 : gives (step (running 100 [0])) (fun t => t.status == .halted && t.pc == 101) = true := by decide
/-- S2. -/
theorem test_halt_s2 : gives (step (running 1023 [0])) (fun t => t.status == .halted && t.pc == 1024) = true := by decide
/-- S3. -/
theorem test_noop_s3 : gives (step (running 100 [1])) (fun t => t == { running 100 [1] with pc := 101 }) = true := by decide
/-- S4. -/
theorem test_outa_s4 : gives (step { running 100 [12] with a := 72, out := [5] }) (fun t => t.out == [5, 72] && t.pc == 101 && t.a == 72) = true := by decide
/-- S6. -/
theorem test_outa_s6 : gives (step { running 100 [12] with a := M }) (fun t => t.out == [M]) = true := by decide
/-- A1. -/
theorem test_inca_a1 : gives (step { running 100 [2] with z := true }) (fun t => t.a == 1 && t.pc == 101 && t.z) = true := by decide
/-- A2. -/
theorem test_inca_a2 : gives (step { running 100 [2] with a := M }) (fun t => t.a == 0) = true := by decide
/-- A3. -/
theorem test_deca_a3 : gives (step { running 100 [3] with a := 72 }) (fun t => t.a == 71) = true := by decide
/-- A4. -/
theorem test_deca_a4 : gives (step (running 100 [3])) (fun t => t.a == M) = true := by decide
/-- A6, A19. -/
theorem test_deci_a6 : gives (step { running 100 [6] with i := 1, z := true }) (fun t => t.i == 0 && t.z) = true := by decide
/-- A7. -/
theorem test_deci_a7 : gives (step (running 100 [6])) (fun t => t.i == M) = true := by decide
/-- A8. -/
theorem test_inci_a8 : gives (step (running 100 [14])) (fun t => t.i == 1) = true := by decide
/-- A9. -/
theorem test_inci_a9 : gives (step { running 100 [14] with i := M }) (fun t => t.i == 0) = true := by decide
/-- A10. -/
theorem test_adxy_a10 : gives (step { running 100 [9] with x := 34, y := 55 }) (fun t => t.y == 89 && t.x == 34) = true := by decide
/-- A13. -/
theorem test_adxy_a13 : gives (step { running 100 [9] with x := M, y := M }) (fun t => t.y == 18446744073709551614) = true := by decide
/-- A14. -/
theorem test_cmpi_a14 : gives (step { running 100 [16, 3] with i := 3 }) (fun t => t.z && t.pc == 102 && t.i == 3) = true := by decide
/-- A18. -/
theorem test_cmpi_a18 : gives (step { running 100 [16, 1] with i := 4294967297, z := true }) (fun t => t.z == false) = true := by decide
/-- M1. -/
theorem test_seta_m1 : gives (step { running 100 [4, 72] with a := 5 }) (fun t => t.a == 72 && t.pc == 102) = true := by decide
/-- F5. -/
theorem test_seta_f5 : gives (step { running 1023 [4] with a := 9 }) (fun t => t.status == .failed .outOfRange 1024 && t.pc == 1024 && t.a == 9) = true := by decide
/-- M3. -/
theorem test_seti_m3 : gives (step { running 100 [5, 10] with z := true }) (fun t => t.i == 10 && t.pc == 102 && t.z) = true := by decide
/-- M4. -/
theorem test_seti_m4 : gives (step { running 100 [5, 0] with i := 9 }) (fun t => t.i == 0 && t.z == false) = true := by decide
/-- M5. -/
theorem test_mvay_m5 : gives (step { running 100 [8] with a := 55, y := 7 }) (fun t => t.y == 55 && t.a == 55 && t.pc == 101) = true := by decide
/-- M6. -/
theorem test_mvax_m6 : gives (step { running 100 [10] with a := 34, x := 1 }) (fun t => t.x == 34 && t.a == 34) = true := by decide
/-- M7. -/
theorem test_mvya_m7 : gives (step { running 100 [11] with a := 55, y := 89 }) (fun t => t.a == 89 && t.y == 89) = true := by decide
/-- J1. -/
theorem test_jinz_j1 : gives (step { running 100 [7, 3] with i := 9 }) (fun t => t.pc == 3) = true := by decide
/-- J10. -/
theorem test_jinz_j10 : gives (step (running 1023 [7])) (fun t => t.pc == 1025 && t.status == .running) = true := by decide
/-- J5. -/
theorem test_jump_j5 : gives (step (running 100 [13, 0])) (fun t => t.pc == 0) = true := by decide
/-- J7. -/
theorem test_jump_j7 : gives (step (running 100 [13, M])) (fun t => t.pc == M && t.status == .running) = true := by decide
/-- J8. -/
theorem test_jneq_j8 : gives (step (running 100 [17, 2])) (fun t => t.pc == 2 && t.z == false) = true := by decide
/-- J9. -/
theorem test_jneq_j9 : gives (step { running 100 [17, 2] with z := true }) (fun t => t.pc == 102 && t.z) = true := by decide
/-- L2. -/
theorem test_ldai_l2 : gives (step { running 100 [15, 0] with i := 100 }) (fun t => t.a == 15 && t.pc == 102) = true := by decide
/-- L4. -/
theorem test_ldai_l4 : gives (step { running 100 [15, 24] with i := 1000, a := 77 }) (fun t => t.status == .failed .outOfRange 1024 && t.a == 77 && t.pc == 102) = true := by decide
/-- L3: the address wraps. -/
theorem test_ldai_l3 : gives (step { (running 100 [15, 1]).memWrite 0 5 with i := M }) (fun t => t.a == 5) = true := by decide
/-- F1. -/
theorem test_unknown_f1 : gives (step (running 100 [99])) (fun t => t == { running 100 [99] with pc := 101, status := .failed .unknownOpcode 99 }) = true := by decide
/-- F4. -/
theorem test_fetch_f4 : gives (step { running 0 [] with pc := 1024 }) (fun t => t.status == .failed .outOfRange 1024 && t.pc == 1024) = true := by decide
/-- F6. -/
theorem test_cmpi_f6 : gives (step { running 1023 [16] with z := true }) (fun t => t.status == .failed .outOfRange 1024 && t.pc == 1024 && t.z) = true := by decide
/-- J11. -/
theorem test_jinz_j11 : gives (step { running 1023 [7] with i := 1 }) (fun t => t.status == .failed .outOfRange 1024 && t.pc == 1024) = true := by decide

/-! Host operations (95_test_vectors H1 to H5), ports, streams, debug mode. -/

/-- The state a Load leaves, where it loads. -/
def loadedState (r : LoadResult) (p : State → Bool) : Bool :=
  match r with
  | .loaded t => p t
  | .tooLong => false
  | .busy => false

/-- H2: the tail of the longer program stays, and so do the registers. -/
theorem test_load_keeps_tail :
    loadedState ({ (State.reset.writeWords 0 [2, 5, 10]) with a := 89, pc := 11, status := .halted }.load [1, 0])
      (fun t => Memory.read t.mem 0 == 1 && Memory.read t.mem 1 == 0 && Memory.read t.mem 2 == 10 && t.a == 89 && t.pc == 0 &&
        t.status == .idle) = true := by decide
/-- H3 on a memory of two Words: the failure changes nothing; two Words load. -/
theorem test_load_too_long :
    { State.reset with cfg := ⟨2, OpVal.default⟩ }.load [1, 2, 3] = .tooLong ∧
      loadedState ({ State.reset with cfg := ⟨2, OpVal.default⟩ }.load [1, 2]) (fun t => t.mem == [(0, 1), (1, 2)]) = true := by decide
/-- H4. -/
theorem test_load_empty : loadedState ({ State.reset with pc := 11 }.load []) (fun t => t.pc == 0 && t.mem == []) = true := by decide
/-- H5, V3: `[1, 0]` run: HALTED, pc 2. -/
theorem test_run_noop_halt :
    (match (State.reset.writeWords 0 [1, 0]).run 5 with
      | .ended t => t.status == .halted && t.pc == 2
      | .outOfFuel _ => false
      | .refused _ => false) = true := by decide
/-- P4 (e): a jump to itself never ends. -/
theorem test_run_endless :
    (match (State.reset.writeWords 0 [13, 0]).run 5 with
      | .ended _ => false
      | .outOfFuel t => t.pc == 0
      | .refused _ => false) = true := by decide
theorem test_stream_bytes_ascii : { State.reset with out := [72, 105] }.streamBytes = [72, 105] := by decide
theorem test_ports_after_failure :
    { State.reset with status := .failed .outOfRange 1024 }.causePort = 2 ∧
      { State.reset with status := .failed .outOfRange 1024 }.infoPort = some 1024 := by decide
/-- 60_exceptions R200, R201: the snapshot, then the step; `JINZ` has no operand shown (30_encoding R85). -/
theorem test_debug_step :
    gives (step { running 100 [7, 3] with debug := true, inp := [65, 10, 66], i := 9 })
      (fun t => t.pc == 3 && t.inp == [66] && t.hold == false &&
        t.snaps == [⟨⟨100, 0, 9, 0, 0, false, some 7, some .jinz, none⟩, 0⟩]) = true := by decide
/-- 70_reset R230, 60_exceptions R202: the strobe releases the held fetch, reading no line and showing no second snapshot. -/
theorem test_strobe_releases_hold :
    gives ({ running 100 [7, 3] with debug := true, hold := true, inp := [65], i := 9 }.dbgStepPort)
      (fun t => t.pc == 3 && t.inp == [65] && t.hold == false && t.snaps == []) = true := by decide
theorem test_debug_holds :
    gives (step { running 100 [4, 72] with debug := true, inp := [65] })
      (fun t => t.pc == 100 && t.hold && t.snaps == [⟨⟨100, 0, 0, 0, 0, false, some 4, some .seta, some 72⟩, 0⟩]) = true := by decide

/-! The toolchain (95_test_vectors V2 to V5; 30_encoding R85, R106, R112). -/

open Sys2Proof.Toolchain in
/-- V2: `NOOP\nSETA 5 \n HALT\n` gives four tokens on lines 1, 2, 2, 3. -/
theorem test_tokenize_v2 :
    tokenize Config.default ['N', 'O', 'O', 'P', '\n', 'S', 'E', 'T', 'A', ' ', '5', ' ', '\n', ' ', 'H', 'A', 'L', 'T', '\n'] =
      .ok [⟨.instruction .noop, 1, ['N', 'O', 'O', 'P'], 1⟩, ⟨.instruction .seta, 4, ['S', 'E', 'T', 'A'], 2⟩,
        ⟨.numberLiteral, 5, ['5'], 2⟩, ⟨.instruction .halt, 0, ['H', 'A', 'L', 'T'], 3⟩] := by decide
/-- V3: `NOOP; halt`. -/
theorem test_assemble_v3 :
    Toolchain.assemble Config.default ['N', 'O', 'O', 'P', ';', ' ', 'h', 'a', 'l', 't'] = .ok [1, 0] := by decide
/-- V4: the Cyrillic rune is 1083; a comment is dropped. -/
theorem test_assemble_v4 :
    Toolchain.assemble Config.default ['S', 'E', 'T', 'A', ' ', '\'', 'л', '\'', ' ', '/', '/', 'x'] = .ok [4, 1083] := by decide
/-- V5: `[` is an unknown instruction on line 1. -/
theorem test_assemble_v5 : Toolchain.assemble Config.default ['['] = .error (.unknownInstruction ['['] 1) := by decide
/-- R85: `SETA HALT` is rejected, `JINZ HALT` is not. -/
theorem test_assemble_arity :
    Toolchain.assemble Config.default ['S', 'E', 'T', 'A', ' ', 'H', 'A', 'L', 'T'] =
        .error (.unexpectedInstruction ['H', 'A', 'L', 'T'] 1) ∧
      Toolchain.assemble Config.default ['J', 'I', 'N', 'Z', ' ', 'H', 'A', 'L', 'T'] = .ok [7, 0] := by decide
/-- R106: a separator between quotes is a rune; R109: 2^64 is no literal. -/
theorem test_lex_literals :
    Toolchain.runeValue ['\'', ';', '\''] = some 59 ∧
      Toolchain.numberValue ['1', '8', '4', '4', '6', '7', '4', '4', '0', '7', '3', '7', '0', '9', '5', '5', '1', '6', '1', '5'] = some M ∧
      Toolchain.numberValue ['1', '8', '4', '4', '6', '7', '4', '4', '0', '7', '3', '7', '0', '9', '5', '5', '1', '6', '1', '6'] = none ∧
      Toolchain.numberValue ['-', '1'] = none := by decide

/-! WITNESSES: states and operands that meet the hypotheses of each statement, clause by clause, at a boundary of its range. -/

/-- A running machine whose opcode fetch fails, pc at MEMSIZE: the clause OpcodeFetchRaises of every instruction's statement. -/
theorem witness_OpcodeFetchRaises :
    { running 0 [] with pc := 1024 }.Running ∧
      { running 0 [] with pc := 1024 }.cfg.memSize ≤ { running 0 [] with pc := 1024 }.pc.toNat := by decide

/-- Placing an opcode word under the default OPVAL, or under another, makes its instruction next. -/
theorem nextIs_default (s : State) (i : Instr) (n : Nat) (h : s.Running) (hc : s.cfg = Config.default) (hl : s.pc.toNat < 1024)
    (hm : Memory.read s.mem s.pc.toNat = BitVec.ofNat 64 n) : s.NextIs i n :=
  ⟨h, hc ▸ Config.default_wf, by rw [hc]; exact hl, .inr ⟨by rw [hc]; rfl, hm⟩⟩

theorem nextIs_shifted (s : State) (i : Instr) (n : Nat) (h : s.Running) (hc : s.cfg = ⟨1024, shiftedOpVal⟩) (hl : s.pc.toNat < 1024)
    (hm : Memory.read s.mem s.pc.toNat = shiftedOpVal.value i) : s.NextIs i n :=
  ⟨h, hc ▸ shifted_wf, by rw [hc]; exact hl, .inl (by rw [hc]; exact hm)⟩

theorem witness_HaltStopsRun : (running 1023 [0]).NextIs .halt 0 ∧ (shifted [100]).NextIs .halt 0 :=
  ⟨nextIs_default _ _ _ (by decide) rfl (by decide) (by decide), nextIs_shifted _ _ _ (by decide) rfl (by decide) (by decide)⟩
theorem witness_NoopChangesNothing : (running 1023 [1]).NextIs .noop 1 ∧ (shifted [101]).NextIs .noop 1 :=
  ⟨nextIs_default _ _ _ (by decide) rfl (by decide) (by decide), nextIs_shifted _ _ _ (by decide) rfl (by decide) (by decide)⟩
theorem witness_IncaAddsOneToA : (running 1023 [2]).NextIs .inca 2 ∧ (shifted [102]).NextIs .inca 2 :=
  ⟨nextIs_default _ _ _ (by decide) rfl (by decide) (by decide), nextIs_shifted _ _ _ (by decide) rfl (by decide) (by decide)⟩
theorem witness_DecaSubtractsOneFromA : (running 1023 [3]).NextIs .deca 3 ∧ (shifted [103]).NextIs .deca 3 :=
  ⟨nextIs_default _ _ _ (by decide) rfl (by decide) (by decide), nextIs_shifted _ _ _ (by decide) rfl (by decide) (by decide)⟩
theorem witness_SetaLoadsOperand :
    (running 1022 [4, 3]).NextIs .seta 4 ∧ (running 1022 [4, 3]).pc.toNat + 1 < 1024 ∧
      (running 1023 [4]).NextIs .seta 4 ∧ (running 1023 [4]).pc.toNat + 1 = 1024 ∧
      (shifted [104, 3]).NextIs .seta 4 :=
  ⟨nextIs_default _ _ _ (by decide) rfl (by decide) (by decide), by decide, nextIs_default _ _ _ (by decide) rfl (by decide) (by decide), by decide, nextIs_shifted _ _ _ (by decide) rfl (by decide) (by decide)⟩
theorem witness_SetiLoadsOperand :
    (running 1022 [5, 3]).NextIs .seti 5 ∧ (running 1022 [5, 3]).pc.toNat + 1 < 1024 ∧
      (running 1023 [5]).NextIs .seti 5 ∧ (running 1023 [5]).pc.toNat + 1 = 1024 ∧
      (shifted [105, 3]).NextIs .seti 5 :=
  ⟨nextIs_default _ _ _ (by decide) rfl (by decide) (by decide), by decide, nextIs_default _ _ _ (by decide) rfl (by decide) (by decide), by decide, nextIs_shifted _ _ _ (by decide) rfl (by decide) (by decide)⟩
theorem witness_DeciSubtractsOneFromI : (running 1023 [6]).NextIs .deci 6 ∧ (shifted [106]).NextIs .deci 6 :=
  ⟨nextIs_default _ _ _ (by decide) rfl (by decide) (by decide), nextIs_shifted _ _ _ (by decide) rfl (by decide) (by decide)⟩
theorem witness_JinzJumpsWhenIndexNotZero :
    { running 1022 [7, 3] with i := M }.NextIs .jinz 7 ∧ { running 1022 [7, 3] with i := M }.pc.toNat + 1 < 1024 ∧
      { running 1023 [7] with i := M }.NextIs .jinz 7 ∧ { running 1023 [7] with i := M }.pc.toNat + 1 = 1024 ∧
      { shifted [107, 3] with i := M }.NextIs .jinz 7 :=
  ⟨nextIs_default _ _ _ (by decide) rfl (by decide) (by decide), by decide, nextIs_default _ _ _ (by decide) rfl (by decide) (by decide), by decide, nextIs_shifted _ _ _ (by decide) rfl (by decide) (by decide)⟩
theorem witness_MvayCopiesAToY : (running 1023 [8]).NextIs .mvay 8 ∧ (shifted [108]).NextIs .mvay 8 :=
  ⟨nextIs_default _ _ _ (by decide) rfl (by decide) (by decide), nextIs_shifted _ _ _ (by decide) rfl (by decide) (by decide)⟩
theorem witness_AdxyAddsXToY : (running 1023 [9]).NextIs .adxy 9 ∧ (shifted [109]).NextIs .adxy 9 :=
  ⟨nextIs_default _ _ _ (by decide) rfl (by decide) (by decide), nextIs_shifted _ _ _ (by decide) rfl (by decide) (by decide)⟩
theorem witness_MvaxCopiesAToX : (running 1023 [10]).NextIs .mvax 10 ∧ (shifted [110]).NextIs .mvax 10 :=
  ⟨nextIs_default _ _ _ (by decide) rfl (by decide) (by decide), nextIs_shifted _ _ _ (by decide) rfl (by decide) (by decide)⟩
theorem witness_MvyaCopiesYToA : (running 1023 [11]).NextIs .mvya 11 ∧ (shifted [111]).NextIs .mvya 11 :=
  ⟨nextIs_default _ _ _ (by decide) rfl (by decide) (by decide), nextIs_shifted _ _ _ (by decide) rfl (by decide) (by decide)⟩
theorem witness_OutaAppendsA : (running 1023 [12]).NextIs .outa 12 ∧ (shifted [112]).NextIs .outa 12 :=
  ⟨nextIs_default _ _ _ (by decide) rfl (by decide) (by decide), nextIs_shifted _ _ _ (by decide) rfl (by decide) (by decide)⟩
theorem witness_JumpGoesToOperand :
    (running 1022 [13, 3]).NextIs .jump 13 ∧ (running 1022 [13, 3]).pc.toNat + 1 < 1024 ∧
      (running 1023 [13]).NextIs .jump 13 ∧ (running 1023 [13]).pc.toNat + 1 = 1024 ∧
      (shifted [113, 3]).NextIs .jump 13 :=
  ⟨nextIs_default _ _ _ (by decide) rfl (by decide) (by decide), by decide, nextIs_default _ _ _ (by decide) rfl (by decide) (by decide), by decide, nextIs_shifted _ _ _ (by decide) rfl (by decide) (by decide)⟩
theorem witness_InciAddsOneToI : (running 1023 [14]).NextIs .inci 14 ∧ (shifted [114]).NextIs .inci 14 :=
  ⟨nextIs_default _ _ _ (by decide) rfl (by decide) (by decide), nextIs_shifted _ _ _ (by decide) rfl (by decide) (by decide)⟩
theorem witness_LdaiLoadsIndexedWord :
    (running 1022 [15, 3]).NextIs .ldai 15 ∧ (running 1022 [15, 3]).pc.toNat + 1 < 1024 ∧
      (running 1023 [15]).NextIs .ldai 15 ∧ (running 1023 [15]).pc.toNat + 1 = 1024 ∧
      (shifted [115, 3]).NextIs .ldai 15 :=
  ⟨nextIs_default _ _ _ (by decide) rfl (by decide) (by decide), by decide, nextIs_default _ _ _ (by decide) rfl (by decide) (by decide), by decide, nextIs_shifted _ _ _ (by decide) rfl (by decide) (by decide)⟩
theorem witness_CmpiSetsZToEquality :
    (running 1022 [16, 3]).NextIs .cmpi 16 ∧ (running 1022 [16, 3]).pc.toNat + 1 < 1024 ∧
      (running 1023 [16]).NextIs .cmpi 16 ∧ (running 1023 [16]).pc.toNat + 1 = 1024 ∧
      (shifted [116, 3]).NextIs .cmpi 16 :=
  ⟨nextIs_default _ _ _ (by decide) rfl (by decide) (by decide), by decide, nextIs_default _ _ _ (by decide) rfl (by decide) (by decide), by decide, nextIs_shifted _ _ _ (by decide) rfl (by decide) (by decide)⟩
theorem witness_JneqJumpsWhenZFalse :
    (running 1022 [17, 3]).NextIs .jneq 17 ∧ (running 1022 [17, 3]).pc.toNat + 1 < 1024 ∧
      (running 1023 [17]).NextIs .jneq 17 ∧ (running 1023 [17]).pc.toNat + 1 = 1024 ∧
      (shifted [117, 3]).NextIs .jneq 17 :=
  ⟨nextIs_default _ _ _ (by decide) rfl (by decide) (by decide), by decide, nextIs_default _ _ _ (by decide) rfl (by decide) (by decide), by decide, nextIs_shifted _ _ _ (by decide) rfl (by decide) (by decide)⟩

/-- The clause of HALT alone: a running machine that HALT takes to HALTED. -/
theorem witness_HaltStopsRun_only : (running 0 [0]).status = .running ∧
    exec .halt (running 0 [0]) = .next { running 0 [0] with status := .halted } := ⟨rfl, rfl⟩

/-- The clause of MVAX that no other instruction writes X. -/
theorem witness_MvaxCopiesAToX_only :
    exec .mvax { State.reset with a := 5 } = .next { State.reset with a := 5, x := 5 } ∧
      { State.reset with a := 5, x := 5 }.x ≠ { State.reset with a := 5 }.x := ⟨rfl, by decide⟩

/-- The exec clauses of the two-word instructions: the operand inside memory, at its last address, and outside, at MEMSIZE. -/
theorem witness_operand_clauses :
    { running 0 [] with pc := 1023 }.pc.toNat < { running 0 [] with pc := 1023 }.cfg.memSize ∧
      { running 0 [] with pc := 1024 }.cfg.memSize ≤ { running 0 [] with pc := 1024 }.pc.toNat := by decide

/-- DECI with its operand-of-the-JINZ clause: I 1 and I 0 at the last address. -/
theorem witness_DeciSubtractsOneFromI_jinz :
    exec .deci { running 0 [] with pc := 1023, i := 1 } = .next { running 0 [] with pc := 1023, i := 0 } ∧
      exec .deci { running 0 [] with pc := 1023 } = .next { running 0 [] with pc := 1023, i := M } ∧
      { running 0 [] with pc := 1023, i := M }.pc.toNat < { running 0 [] with pc := 1023, i := M }.cfg.memSize :=
  ⟨rfl, rfl, by decide⟩
theorem witness_JinzJumpsWhenIndexNotZero_arms : { State.reset with i := M }.i ≠ 0 ∧ State.reset.i = 0 := by decide
theorem witness_JinzJumpsWhenIndexNotZero_not_taken : (running 1023 [7]).NextIs .jinz 7 ∧ (running 1023 [7]).i = 0 :=
  ⟨nextIs_default _ _ _ (by decide) rfl (by decide) (by decide), rfl⟩
theorem witness_JneqJumpsWhenZFalse_arms : State.reset.z = false ∧ { State.reset with z := true }.z = true := by decide
theorem witness_JneqJumpsWhenZFalse_not_taken :
    { running 1023 [17] with z := true }.NextIs .jneq 17 ∧ { running 1023 [17] with z := true }.z = true :=
  ⟨nextIs_default _ _ _ (by decide) rfl (by decide) (by decide), rfl⟩

/-- SETI of zero, and JUMP to MEMSIZE, with the states they lead to. -/
theorem witness_SetiLoadsOperand_zero : (running 0 [0]).pc.toNat < (running 0 [0]).cfg.memSize ∧
    Memory.read (running 0 [0]).mem (running 0 [0]).pc.toNat = 0 ∧
    exec .seti (running 0 [0]) = .next { running 0 [0] with i := 0, pc := 1 } := ⟨by decide, by decide, rfl⟩
theorem witness_JumpGoesToOperand_outside : (running 0 [1024]).Running ∧
    (running 0 [1024]).pc.toNat < (running 0 [1024]).cfg.memSize ∧
    (running 0 [1024]).cfg.memSize ≤ (Memory.read (running 0 [1024]).mem (running 0 [1024]).pc.toNat).toNat ∧
    exec .jump (running 0 [1024]) = .next { running 0 [1024] with pc := 1024 } := ⟨by decide, by decide, by decide, rfl⟩

/-- LDAI's two ranges where they meet: the indexed address 1023 and 1024, for the execution (pc at the operand) and for the step. -/
theorem witness_LdaiLoadsIndexedWord_exec :
    (1023 : Word).toNat = ({ running 0 [23] with i := 1000 }.i.toNat +
        (Memory.read { running 0 [23] with i := 1000 }.mem 0).toNat) % 2 ^ 64 ∧ (1023 : Word).toNat < 1024 ∧
      (1024 : Word).toNat = ({ running 0 [24] with i := 1000 }.i.toNat +
        (Memory.read { running 0 [24] with i := 1000 }.mem 0).toNat) % 2 ^ 64 ∧ 1024 ≤ (1024 : Word).toNat := by decide
theorem witness_LdaiLoadsIndexedWord_step :
    { running 100 [15, 23] with i := 1000 }.NextIs .ldai 15 ∧
      (1023 : Word).toNat = ({ running 100 [15, 23] with i := 1000 }.i.toNat +
        (Memory.read { running 100 [15, 23] with i := 1000 }.mem 101).toNat) % 2 ^ 64 ∧ (1023 : Word).toNat < 1024 ∧
      { running 100 [15, 24] with i := 1000 }.NextIs .ldai 15 ∧
      (1024 : Word).toNat = ({ running 100 [15, 24] with i := 1000 }.i.toNat +
        (Memory.read { running 100 [15, 24] with i := 1000 }.mem 101).toNat) % 2 ^ 64 :=
  ⟨nextIs_default _ _ _ (by decide) rfl (by decide) (by decide), by decide, by decide,
    nextIs_default _ _ _ (by decide) rfl (by decide) (by decide), by decide⟩

theorem witness_StepKeepsInvariant : (running 0 [2]).Inv ∧ step (running 0 [2]) = .next { running 0 [2] with a := 1, pc := 1 } :=
  ⟨by decide, rfl⟩
theorem witness_StepRunsDecodedInstruction :
    (running 1023 [18]).Running ∧ (running 1023 [18]).cfg.decode (Memory.read (running 1023 [18]).mem 1023) = none ∧
      (running 1023 [17]).cfg.decode (Memory.read (running 1023 [17]).mem 1023) = some .jneq ∧
      step (running 0 [2]) = .next { running 0 [2] with a := 1, pc := 1 } := ⟨by decide, by decide, by decide, rfl⟩
theorem witness_EndedMachineStays : State.reset.Ended ∧ { State.reset with status := .halted }.Ended ∧
    { State.reset with status := .failed .outOfRange 1024 }.Ended := by decide
theorem witness_RegistersWrittenOnlyByTheirWriters :
    exec .inca State.reset = .next { State.reset with a := 1 } ∧ { State.reset with a := 1 }.reg .A ≠ State.reset.reg .A :=
  ⟨rfl, by decide⟩
theorem witness_RegistersReadOnlyByTheirReaders : Instr.adxy ∉ Reg.A.readers ∧
    exec .adxy { State.reset with x := 3 } = .next { State.reset with x := 3, y := 3 } ∧
    exec .adxy ({ State.reset with x := 3 }.setReg .A 7) = .next { State.reset with a := 7, x := 3, y := 3 } :=
  ⟨by decide, rfl, rfl⟩
/-- A writer of A that is no reader of it: SETA on two values of A. -/
theorem witness_RegistersReadOnlyByTheirReaders_writer : Instr.seta ∉ Reg.A.readers ∧
    exec .seta (running 0 [72]) = .next { running 0 [72] with a := 72, pc := 1 } ∧
    exec .seta ((running 0 [72]).setReg .A M) = .next { running 0 [72] with a := 72, pc := 1 } := ⟨by decide, rfl, rfl⟩
/-- CMPI on both values of Z. -/
theorem witness_ZWrittenByCmpiReadByJneqOnly_writer : Instr.cmpi ≠ .jneq ∧
    exec .cmpi (running 0 [3]) = .next { running 0 [3] with pc := 1, z := false } ∧
    exec .cmpi ((running 0 [3]).setZ true) = .next { running 0 [3] with pc := 1, z := false } := ⟨by decide, rfl, rfl⟩
theorem witness_ZWrittenByCmpiReadByJneqOnly : Instr.jinz ≠ .cmpi ∧ Instr.jinz ≠ .jneq ∧
    exec .jinz State.reset = .next { State.reset with pc := 1 } ∧
    exec .jinz (State.reset.setZ true) = .next { State.reset with z := true, pc := 1 } ∧
    State.reset.load [1] = .loaded { State.reset with mem := [(0, 1)] } := ⟨by decide, by decide, rfl, rfl, by decide⟩
theorem witness_ZKeptUntilNextCompare_compare :
    (running 0 [3]).pc.toNat < (running 0 [3]).cfg.memSize ∧
      exec .cmpi { running 0 [3] with i := 3 } = .next { running 0 [3] with i := 3, pc := 1, z := true } := ⟨by decide, rfl⟩
theorem witness_ZKeptUntilNextCompare_run :
    Host.Core.run Sys2Proof.core 1 (running 0 [2]) = .next { running 0 [2] with a := 1, pc := 1 } ∧
      ∀ (m : Nat) (u : State), m < 1 → Host.Core.run Sys2Proof.core m (running 0 [2]) = .next u → u.status = .running →
        u.cfg.decode (Memory.read u.mem u.pc.toNat) ≠ some .cmpi := by
  refine ⟨rfl, fun m u hm hu _ => ?_⟩
  obtain rfl : m = 0 := by omega
  cases hu
  decide
theorem witness_MemoryConstantDuringRun :
    Host.Core.run Sys2Proof.core 1 (running 0 [2]) = .next { running 0 [2] with a := 1, pc := 1 } := rfl
theorem witness_OutGrowsOnlyByOuta :
    step { running 0 [12] with a := 72 } = .next { running 0 [12] with a := 72, pc := 1, out := [72] } := rfl
theorem witness_InputUntouchedWithoutDebug : (running 0 [2]).debug = false ∧
    step (running 0 [2]) = .next { running 0 [2] with a := 1, pc := 1 } := ⟨rfl, rfl⟩
theorem witness_NoInstructionReadsStatus : exec .noop State.reset = .next State.reset ∧
    exec .noop (State.reset.setStatus .halted) = .next { State.reset with status := .halted } := ⟨rfl, rfl⟩
/-- HALT, which writes the status, on two values of it. -/
theorem witness_NoInstructionReadsStatus_writer : exec .halt State.reset = .next { State.reset with status := .halted } ∧
    exec .halt (State.reset.setStatus .running) = .next { State.reset with status := .halted } := ⟨rfl, rfl⟩
theorem witness_ExecFailsExactlyByTable : (running 0 []).status = .running ∧
    State.RaisesOutOfRange { running 0 [] with pc := 1024 } .seta ∧ ¬ State.RaisesOutOfRange { running 0 [] with pc := 1023 } .seta := by
  refine ⟨rfl, ?_, ?_⟩ <;> simp only [State.RaisesOutOfRange] <;> decide
theorem witness_StepEndsRunExactlyAtStop : (running 0 [2]).Running := by decide
theorem witness_FailedStepChangesOnlyPcAndStatus : (running 1023 [4]).Running ∧
    step (running 1023 [4]) = .next { running 1023 [4] with pc := 1024, status := .failed .outOfRange 1024 } := ⟨by decide, rfl⟩
/-- The other three failing accesses. -/
theorem witness_FailedStepChangesOnlyPcAndStatus_rows :
    step { running 0 [] with pc := 1024 } = .next { running 0 [] with pc := 1024, status := .failed .outOfRange 1024 } ∧
      step (running 1023 [18]) = .next { running 1023 [18] with pc := 1024, status := .failed .unknownOpcode 18 } ∧
      step { running 1022 [15, 24] with i := 1000 } =
        .next { running 1022 [15, 24] with i := 1000, pc := 1024, status := .failed .outOfRange 1024 } := ⟨rfl, rfl, rfl⟩
theorem witness_FailureLeavesTableState : (running 100 [15, 24]).Running ∧ (running 100 [15, 24]).cfg.Wf ∧
    step { running 100 [15, 24] with i := 1000 } =
      .next { running 100 [15, 24] with i := 1000, pc := 102, status := .failed .outOfRange 1024 } :=
  ⟨by decide, Config.default_wf, rfl⟩
theorem witness_FailureLeavesTableState_operand : (running 1023 [4]).Running ∧ (running 1023 [4]).cfg.Wf ∧
    step (running 1023 [4]) = .next { running 1023 [4] with pc := 1024, status := .failed .outOfRange 1024 } :=
  ⟨by decide, Config.default_wf, rfl⟩
theorem witness_FailureLeavesTableState_opcode : { running 0 [] with pc := 1024 }.Running ∧
    step { running 0 [] with pc := 1024 } = .next { running 0 [] with pc := 1024, status := .failed .outOfRange 1024 } ∧
    step (running 1023 [18]) = .next { running 1023 [18] with pc := 1024, status := .failed .unknownOpcode 18 } :=
  ⟨by decide, rfl, rfl⟩
theorem witness_LengthDecidedByOpcode : (running 1023 [7]).Running ∧ (running 1023 [7]).cfg.Wf ∧
    (running 1023 [7]).pc.toNat < (running 1023 [7]).cfg.memSize ∧
    (running 1023 [7]).cfg.decode (Memory.read (running 1023 [7]).mem (running 1023 [7]).pc.toNat) = some .jinz ∧
    step (running 1023 [7]) = .next { running 1023 [7] with pc := 1025 } ∧ (running 1023 [7]).i = 0 :=
  ⟨by decide, Config.default_wf, by decide, by decide, rfl, rfl⟩
theorem witness_DecodeComparesWholeWord : (⟨1024, shiftedOpVal⟩ : Config).Wf := shifted_wf
theorem witness_DecodeAndEncodeAgree : Config.default.Wf ∧ Code.Wf ⟨.seta, some M⟩ ∧ Code.Wf ⟨.halt, none⟩ ∧
    Config.default.decodeCode [4, 72, 0] = .code ⟨.seta, some 72⟩ [0] := ⟨Config.default_wf, by decide, by decide, by decide⟩
theorem witness_PlacedWordRunsNext : State.reset.cfg = Config.default ∧ State.reset.mem.wf ∧
    { State.reset with pc := 1022 }.pc.toNat + 1 < { State.reset with pc := 1022 }.cfg.memSize ∧
    decodeTableWord 128 (72 * 2 ^ 64 + 4) = some .seta := by decide
theorem witness_MemReadChecksRange : State.reset.cfg.memSize ≤ (1024 : Word).toNat ∧ (1023 : Word).toNat < State.reset.cfg.memSize := by
  decide
theorem witness_LoadPlacesProgramAndResetsPc : State.reset.Ended ∧ State.reset.mem.wf ∧
    ([1, 0] : Program).length ≤ { State.reset with cfg := ⟨2, OpVal.default⟩ }.cfg.memSize ∧
    { State.reset with cfg := ⟨2, OpVal.default⟩ }.cfg.memSize < ([1, 0, 0] : Program).length := by decide
theorem witness_LoadKeepsInvariant : State.reset.Inv ∧ State.reset.load [1] = .loaded { State.reset with mem := [(0, 1)] } := by decide
theorem witness_PortBeatsMakeALoad : { State.reset with cfg := ⟨2, OpVal.default⟩ }.Ended ∧
    { State.reset with cfg := ⟨2, OpVal.default⟩ }.cfg.Wf ∧
    ([1, 2] : Program).length ≤ { State.reset with cfg := ⟨2, OpVal.default⟩ }.cfg.memSize := by decide
theorem witness_RunEndsOnlyHaltedOrFailed : (running 0 [0]).Running ∧
    runLoop 1 (running 0 [0]) = .ended { running 0 [0] with pc := 1, status := .halted } := ⟨by decide, by decide⟩
theorem witness_AsciiOutputIsByteForByte :
    { State.reset with out := [0, 127] }.snaps = [] ∧ ∀ w ∈ { State.reset with out := [0, 127] }.out, w.toNat ≤ 127 := ⟨rfl, by simp⟩
theorem witness_DebugChangesOnlyTheStreams :
    { running 0 [2] with debug := true, inp := [65, 10] }.status = .running ∧
      { running 0 [2] with debug := true, inp := [65, 10] }.hold = false ∧ takeLine [65, 10] = some [] ∧
      step { running 0 [2] with inp := [65, 10] } = .next { running 0 [2] with inp := [65, 10], a := 1, pc := 1 } :=
  ⟨rfl, rfl, by decide, rfl⟩
/-- A held machine whose line has arrived. -/
theorem witness_DebugChangesOnlyTheStreams_held :
    { running 0 [2] with debug := true, hold := true, inp := [10] }.status = .running ∧ takeLine [10] = some [] ∧
      step { running 0 [2] with hold := true, inp := [10] } =
        .next { running 0 [2] with hold := true, inp := [10], a := 1, pc := 1 } := ⟨rfl, by decide, rfl⟩
theorem witness_StepStrobeReleasesHold :
    { running 0 [2] with debug := true, hold := true }.status = .running ∧
      step { running 0 [2] with hold := true } = .next { running 0 [2] with hold := true, a := 1, pc := 1 } ∧
      State.reset.Ended ∧ (running 0 [2]).debug = false := ⟨rfl, rfl, by decide, rfl⟩
theorem witness_StreamInterleavesSnapshots :
    (∀ n ∈ { State.reset with out := [72], snaps := [⟨State.reset.snapshot.toSnapshotLine, 1⟩] }.snaps, n.outPos ≤ 1) ∧
      { State.reset with hold := true }.hold = true ∧ State.reset.hold = false := by decide
theorem witness_DebugHoldsUntilALineArrives :
    { running 0 [2] with debug := true, inp := [65] }.status = .running ∧ takeLine [65] = none ∧
      { running 0 [2] with debug := true, inp := [65] }.inpClosed = false ∧
      { running 0 [2] with debug := true, inpClosed := true }.inpClosed = true := by decide
theorem witness_SnapshotPeeksByNeedsArg :
    (running 1022 [4, 72]).pc.toNat < (running 1022 [4, 72]).cfg.memSize ∧
      (running 1022 [4, 72]).cfg.decode (Memory.read (running 1022 [4, 72]).mem (running 1022 [4, 72]).pc.toNat) = some .seta ∧
      ((running 1022 [4, 72]).pc + 1).toNat < (running 1022 [4, 72]).cfg.memSize := by decide
theorem witness_RunStartsAtCurrentPc : State.reset.Ended ∧ (running 0 []).status = .running := by decide
theorem witness_PortsShowStatus :
    { State.reset with status := .failed .unknownOpcode 99 }.status = .failed .unknownOpcode 99 ∧
      { State.reset with status := .failed .outOfRange 1024 }.status = .failed .outOfRange 1024 ∧
      ∀ c w, State.reset.status ≠ .failed c w := ⟨rfl, rfl, fun _ _ h => by cases h⟩
theorem witness_AssemblerEmitsOneWordPerToken :
    Toolchain.assembleTokens false [⟨.instruction .noop, 1, ['N', 'O', 'O', 'P'], 1⟩, ⟨.comment, 0, ['/', '/'], 1⟩] = .ok [1] := by decide
theorem witness_AssemblerWritesEncodings : ∀ k ∈ [(⟨.seta, some 72⟩ : Code), ⟨.outa, none⟩], k.Wf := by decide
theorem witness_AssemblerChecksNeedsArg :
    (⟨.instruction .seta, 4, ['S', 'E', 'T', 'A'], 1⟩ : Toolchain.Token).kind = .instruction .seta ∧
      (⟨.instruction .halt, 0, ['H', 'A', 'L', 'T'], 1⟩ : Toolchain.Token).kind = .instruction .halt ∧
      Toolchain.assembleTokens Instr.halt.needsArg [] = .ok [] := ⟨rfl, rfl, rfl⟩

end Sys2Proof.Tests
end

section
/-! PROOFS. Load, said once, and the words it places (10_state R46, 70_reset R212, R213). -/

namespace Sys2Proof.Machine

variable {s t : State} {p : Program}

/-- Words written from address `a` upward, inside memory, stand at their places; every other address reads as before. -/
theorem State.writeWords_read (b : Nat) : ∀ (ws : List Word) (s : State) (a : Nat), s.mem.wf →
    a + ws.length ≤ s.cfg.memSize →
    Memory.read (s.writeWords a ws).mem b =
      if b < a then Memory.read s.mem b else ws[b - a]?.getD (Memory.read s.mem b)
  | [], s, a, _, _ => by simp [State.writeWords]
  | w :: ws, s, a, hwf, hfit => by
    have hfit' : a + 1 + ws.length ≤ s.cfg.memSize := by simpa [Nat.add_assoc, Nat.add_comm 1] using hfit
    have ih := State.writeWords_read b ws (s.memWrite a w) (a + 1) (s.memWrite_wf a w hwf) (by simpa using hfit')
    rw [State.memWrite_read s a b w hwf] at ih
    rw [State.writeWords, ih]
    rcases Nat.lt_trichotomy b a with hlt | rfl | hgt
    · simp [hlt, Nat.lt_succ_of_lt hlt, Nat.ne_of_lt hlt]
    · simp [show b < s.cfg.memSize by omega]
    · have hidx : b - a = b - (a + 1) + 1 := by omega
      simp [hidx, Nat.ne_of_gt hgt, show ¬ b < a by omega, show ¬ b < a + 1 by omega]

/-- A program that fits loads into a machine not in a run. -/
theorem State.load_of_fits (hs : s.Ended) (hp : p.length ≤ s.cfg.memSize) :
    s.load p = .loaded { s with mem := (s.writeWords 0 p).mem, pc := 0, status := .idle } := by
  rw [State.load, if_neg hs, if_pos hp, State.writeWords_eq]

/-- A program longer than memory is refused. -/
theorem State.load_of_tooLong (hs : s.Ended) (hp : s.cfg.memSize < p.length) : s.load p = .tooLong := by
  rw [State.load, if_neg hs, if_neg (Nat.not_le.mpr hp)]

/-- Everything a successful Load does: the machine was not in a run, the program fits, and memory, pc and status are all that changes. -/
theorem State.load_cases (h : s.load p = .loaded t) :
    s.Ended ∧ p.length ≤ s.cfg.memSize ∧ t = { s with mem := (s.writeWords 0 p).mem, pc := 0, status := .idle } := by
  by_cases hs : s.status = .running
  · simp [State.load, hs] at h
  · rcases Nat.lt_or_ge s.cfg.memSize p.length with hp | hp
    · simp [State.load_of_tooLong hs hp] at h
    · rw [State.load_of_fits hs hp] at h
      cases h
      exact ⟨hs, hp, rfl⟩

/-- Settles O43: Load's next state is `load_of_fits`, and its memory is read by `writeWords_read`. -/
theorem loadPlacesProgramAndResetsPc : Obligations.LoadPlacesProgramAndResetsPc := by
  unfold Obligations.LoadPlacesProgramAndResetsPc
  intro s p hs hwf
  refine ⟨fun hp => ⟨_, State.load_of_fits hs hp, fun k hk => ?_, fun a ha => ?_, rfl⟩, State.load_of_tooLong hs⟩
  all_goals have hread := fun b => State.writeWords_read b p s 0 hwf (by simpa using hp)
  · simp [hread, List.getElem?_eq_getElem hk]
  · simp [hread, List.getElem?_eq_none ha]

end Sys2Proof.Machine
end

section
/-! PROOFS. What does not read a part of the state: two runs, from a state and from the same state with that part set to another value.
Then Z (10_state R36). -/

namespace Sys2Proof.Machine

variable {s t : State} {i : Instr} {α : Type} {get : State → α} {set : State → State}

/-- `f` does not read the part of the state that `get` shows and `set` changes: after that change it answers the same next state but for
the part, which both runs keep; or it answers the very same next state, having written the part. -/
def NotRead (get : State → α) (set : State → State) (f : State → Result) : Prop :=
  ∀ s t, f s = .next t → (get t = get s ∧ f (set s) = .next (set t)) ∨ f (set s) = .next t

/-- A part of the state that memory accesses do not rest on: it is none of the parameters, memory and pc, moving pc goes past it, and
raising does not read it. -/
structure Detached (get : State → α) (set : State → State) : Prop where
  cfg : ∀ s, (set s).cfg = s.cfg
  mem : ∀ s, (set s).mem = s.mem
  pc : ∀ s, (set s).pc = s.pc
  advance : ∀ s, (set s).advance = set s.advance
  get_advance : ∀ s, get s.advance = get s
  raise : ∀ c w, NotRead get set fun s => .next (s.raise c w)

/-- An update that keeps the part and commutes with changing it does not read it. -/
theorem NotRead.of_comm {g : State → State} (hget : ∀ s, get (g s) = get s) (hset : ∀ s, g (set s) = set (g s)) :
    NotRead get set fun s => .next (g s) := by
  rintro s _ ⟨⟩
  exact .inl ⟨hget s, congrArg _ (hset s)⟩

/-- An update that writes the part over does not read it. -/
theorem NotRead.of_overwrite {g : State → State} (hset : ∀ s, g (set s) = g s) : NotRead get set fun s => .next (g s) := by
  rintro s _ ⟨⟩
  exact .inr (congrArg _ (hset s))

/-- A memory read does not read the part if neither its address nor what follows does. -/
theorem NotRead.withRead (hd : Detached get set) {addr : State → Word} {f : Word → State → Result}
    (haddr : ∀ s, addr (set s) = addr s) (hf : ∀ w, NotRead get set (f w)) :
    NotRead get set fun s => s.withRead (addr s) fun w => f w s := by
  intro s t h
  simp only [haddr]
  rcases State.withRead_cases h with ⟨hlt, h⟩ | ⟨hge, rfl⟩
  · rw [State.withRead_of_lt (by rwa [hd.cfg]), hd.mem]
    exact hf _ s t h
  · rw [State.withRead_of_le (by rwa [hd.cfg])]
    exact hd.raise _ _ s _ rfl

/-- An operand fetch does not read the part if what follows does not. -/
theorem NotRead.withOperand (hd : Detached get set) {f : Word → State → Result} (hf : ∀ w, NotRead get set (f w)) :
    NotRead get set fun s => s.withOperand f := by
  refine NotRead.withRead hd (f := fun w s => f w s.advance) hd.pc fun w s t h => ?_
  simpa [hd.advance, hd.get_advance] using hf w s.advance t h

/-- A jump to the operand does not read the part if setting pc does not. -/
theorem NotRead.jumpToOperand (hd : Detached get set) (hpc : ∀ k, NotRead get set fun s => .next (s.setPc k)) :
    NotRead get set State.jumpToOperand := NotRead.withOperand hd hpc

/-- A conditional jump does not read the part if its condition and setting pc do not. -/
theorem NotRead.branch (hd : Detached get set) (hpc : ∀ k, NotRead get set fun s => .next (s.setPc k)) {cond : State → Bool}
    (hcond : ∀ s, cond (set s) = cond s) : NotRead get set fun s => s.branch (cond s) := by
  intro s t h
  simp only [hcond]
  cases hc : cond s with
  | true =>
    simp only [hc] at h
    exact NotRead.jumpToOperand hd hpc s t h
  | false =>
    simp only [hc] at h
    exact NotRead.of_comm hd.get_advance hd.advance s t h

/-- Z is no part that memory accesses rest on. -/
theorem detached_z (b : Bool) : Detached State.z (State.setZ · b) where
  cfg _ := rfl
  mem _ := rfl
  pc _ := rfl
  advance _ := rfl
  get_advance _ := rfl
  raise _ _ := .of_comm (fun _ => rfl) fun _ => rfl

/-- No instruction but JNEQ reads Z (10_state R36). -/
theorem exec_notRead_z (b : Bool) (hi : i ≠ .jneq) : NotRead State.z (State.setZ · b) (exec i) := by
  have hd := detached_z b
  cases i with
  | jneq => exact absurd rfl hi
  | jinz => exact .branch hd (fun _ => .of_comm (fun _ => rfl) fun _ => rfl) fun _ => rfl
  | jump => exact .jumpToOperand hd fun _ => .of_comm (fun _ => rfl) fun _ => rfl
  | seta => exact .withOperand hd fun k => .of_comm (g := (State.setReg · .A k)) (fun _ => rfl) fun _ => rfl
  | seti => exact .withOperand hd fun k => .of_comm (g := (State.setReg · .I k)) (fun _ => rfl) fun _ => rfl
  | cmpi => exact .withOperand hd fun k => .of_overwrite (g := (State.compare · .I k)) fun _ => rfl
  | ldai =>
    exact .withOperand hd fun k => .withRead hd (addr := (State.indexedAddr · k)) (f := fun v s => .next (s.setReg .A v))
      (fun _ => rfl) fun _ => .of_comm (fun _ => rfl) fun _ => rfl
  | _ => exact .of_comm (fun _ => rfl) fun _ => rfl

/-- No instruction but CMPI writes Z (10_state R36). -/
theorem exec_keeps_z (hi : i ≠ .cmpi) (h : exec i s = .next t) : t.z = s.z := by
  rcases exec_cases h with h | ⟨-, rfl⟩ | ⟨-, -, -, rfl⟩
  · cases i with
    | cmpi => exact absurd rfl hi
    | jinz | jneq => rcases h with ⟨-, rfl⟩ | ⟨-, rfl⟩ <;> rfl
    | _ => obtain rfl := h; rfl
  · rfl
  · rfl

/-- Settles O26: the writer by `exec_keeps_z`, the reader by `exec_notRead_z`, Load by `load_cases`, Create by its definition. -/
theorem zWrittenByCmpiReadByJneqOnly : Obligations.ZWrittenByCmpiReadByJneqOnly := by
  unfold Obligations.ZWrittenByCmpiReadByJneqOnly
  refine ⟨fun _ _ _ => exec_keeps_z, fun i s t u b hi ht hu => ?_, fun s t p h => ?_, fun _ _ => rfl⟩
  · rcases exec_notRead_z b hi s t ht with ⟨hz, hu'⟩ | hu' <;> cases hu.symm.trans hu'
    · exact .inl ⟨hz, rfl⟩
    · exact .inr rfl
  · obtain ⟨-, -, rfl⟩ := State.load_cases h
    rfl

end Sys2Proof.Machine
end

section
/-! PROOFS. MemRead, said for both ranges of the address (20_memory R53). -/

namespace Sys2Proof.Machine

/-- Settles O42: `State.withRead_of_le` outside memory, where raising changes only the status; `State.withRead_of_lt` inside. -/
theorem memReadChecksRange : Obligations.MemReadChecksRange := by
  unfold Obligations.MemReadChecksRange
  exact fun _ _ _ => ⟨State.withRead_of_le, State.withRead_of_lt⟩

end Sys2Proof.Machine
end

section
/-! PROOFS. The decoder compares the whole Word (30_encoding R86). -/

namespace Sys2Proof

variable {c : Config} {w : Word}

/-- Under an OPVAL that tells the opcodes apart a Word decodes to the instruction whose value it is, and to no other. -/
theorem Config.Wf.decode_eq_some_iff (h : c.Wf) {i : Instr} : c.decode w = some i ↔ w = c.opval.value i := by
  constructor
  · exact fun hd => (Config.value_of_decode hd).symm
  · rintro rfl
    exact h.decode_value i

/-- The unknown opcodes are the Words that are the value of no instruction, whatever OPVAL is. -/
theorem Config.decode_eq_none_iff : c.decode w = none ↔ ∀ i, w ≠ c.opval.value i := by
  constructor
  · exact fun hd i => (Config.decode_none hd i).symm
  · exact fun hw => Option.eq_none_iff_forall_ne_some.mpr fun i hd => hw i (Config.value_of_decode hd).symm

/-- Settles O37: the two equivalences of the decoder. -/
theorem decodeComparesWholeWord : Obligations.DecodeComparesWholeWord := by
  unfold Obligations.DecodeComparesWholeWord
  exact fun _ _ h => ⟨fun _ => h.decode_eq_some_iff, Config.decode_eq_none_iff⟩

end Sys2Proof
end

section
/-! PROOFS. The length of an instruction and the way pc goes when it does not jump (30_encoding R87). -/

namespace Sys2Proof.Machine

variable {s t : State} {i : Instr}

/-- `i`, executed in `s`, does not jump: it is no jump, or a conditional jump whose condition fails (43_control_transfer R161, R165). -/
abbrev State.NoJump (s : State) (i : Instr) : Prop :=
  i ∉ [.jinz, .jump, .jneq] ∨ (i = .jinz ∧ s.i = 0) ∨ (i = .jneq ∧ s.z = true)

/-- An instruction that does not jump moves pc past its operand word and no further. -/
theorem Effect.pc_of_noJump (h : Effect s t i) (hj : s.NoJump i) :
    t.pc = if i.takesOperand then s.pc + 1 else s.pc := by
  cases i with
  | jump => simp [State.NoJump] at hj
  | jinz =>
    rcases h with ⟨hi, rfl⟩ | ⟨-, rfl⟩
    · exact absurd (by simpa [State.NoJump] using hj) hi
    · rfl
  | jneq =>
    rcases h with ⟨hz, rfl⟩ | ⟨-, rfl⟩
    · simp [State.NoJump, hz] at hj
    · rfl
  | _ => cases h; rfl

/-- A conditional jump that is not taken steps over its operand word without reading it (decision D7). -/
theorem exec_of_not_taken (h : (i = .jinz ∧ s.i = 0) ∨ (i = .jneq ∧ s.z = true)) : exec i s = .next s.advance := by
  rcases h with ⟨rfl, hi⟩ | ⟨rfl, hz⟩
  · simp [exec, execJinz, State.indexNotZero, hi, State.branch, State.skipOperand]
  · simp [exec, execJneq, State.notEqual, hz, State.branch, State.skipOperand]

/-- What a step from inside memory does when its opcode word decodes: the instruction executes, pc moved past that word. -/
theorem exec_of_step (hr : s.Running) (hl : s.pc.toNat < s.cfg.memSize)
    (hd : s.cfg.decode (s.mem.read s.pc.toNat) = some i) (h : step s = .next t) : exec i s.advance = .next t := by
  rw [step_of_running hr, State.cycle, State.withFetch_of_lt hl] at h
  simpa [hd] using h

/-- An execution that does not fail has the instruction's effect. -/
theorem effect_of_not_failed (h : exec i s = .next t) (ht : t.status = .running ∨ t.status = .halted) : Effect s t i := by
  rcases exec_cases h with he | ⟨-, rfl⟩ | ⟨-, -, -, rfl⟩
  · exact he
  · simp at ht
  · simp at ht

/-- Settles O36: the lengths by cases, the way of pc by `Effect.pc_of_noJump` (MEMSIZE leaves room for two Words below 2^64), the jump
not taken by `exec_of_not_taken`. -/
theorem lengthDecidedByOpcode : Obligations.LengthDecidedByOpcode := by
  unfold Obligations.LengthDecidedByOpcode
  refine ⟨fun i => by cases i <;> rfl, fun s t i hr hwf hl hd h ht hj => ?_, fun s i => exec_of_not_taken⟩
  obtain ⟨-, hmax, -⟩ := hwf
  have hpc := (effect_of_not_failed (exec_of_step hr hl hd h) ht).pc_of_noJump hj
  rw [hpc, Instr.length, State.advance_pc]
  split <;> bv_omega

end Sys2Proof.Machine
end

section
/-! PROOFS. The assembler over one token, and the Words it emits (30_encoding R110, R113). -/

namespace Sys2Proof.Toolchain

/-- A program with a Word put before it is accepted only if the program is. -/
theorem exists_of_map_cons_ok {e : Except ToolError Program} {w : Word} {p : Program} (h : e.map (w :: ·) = .ok p) :
    ∃ q, e = .ok q ∧ p = w :: q := by
  cases e with
  | error _ => cases h
  | ok q =>
    cases h
    exact ⟨q, rfl, rfl⟩

/-- If the assembler accepts a list with a first token: a comment emits nothing and changes nothing; an instruction, where no argument is
expected, and a literal emit their value. -/
theorem assembleTokens_cons_cases {b : Bool} {t : Token} {rest : List Token} {p : Program}
    (h : assembleTokens b (t :: rest) = .ok p) :
    (t.kind = .comment ∧ assembleTokens b rest = .ok p) ∨
      (∃ i q, t.kind = .instruction i ∧ b = false ∧ assembleTokens i.needsArg rest = .ok q ∧ p = t.value :: q) ∨
      ((t.kind = .numberLiteral ∨ t.kind = .runeLiteral) ∧ ∃ q, assembleTokens false rest = .ok q ∧ p = t.value :: q) := by
  rw [assembleTokens] at h
  cases hk : t.kind with
  | comment => exact .inl ⟨rfl, by simpa [hk] using h⟩
  | instruction i =>
    cases b with
    | true => simp [hk] at h
    | false =>
      obtain ⟨q, hq, hp⟩ := exists_of_map_cons_ok (by simpa [hk] using h)
      exact .inr (.inl ⟨i, q, rfl, rfl, hq, hp⟩)
  | numberLiteral => exact .inr (.inr ⟨.inl rfl, exists_of_map_cons_ok (by simpa [hk] using h)⟩)
  | runeLiteral => exact .inr (.inr ⟨.inr rfl, exists_of_map_cons_ok (by simpa [hk] using h)⟩)

/-- Settles O53, by induction on the tokens: `assembleTokens_cons_cases` says what each of them emits. -/
theorem assemblerEmitsOneWordPerToken : Obligations.AssemblerEmitsOneWordPerToken := by
  unfold Obligations.AssemblerEmitsOneWordPerToken
  intro b toks
  induction toks generalizing b with
  | nil =>
    intro p h
    cases h
    rfl
  | cons t rest ih =>
    intro p h
    rcases assembleTokens_cons_cases h with ⟨hk, hr⟩ | ⟨i, q, hk, -, hr, rfl⟩ | ⟨hk | hk, q, hr, rfl⟩
    all_goals simpa [hk] using ih _ _ hr

end Sys2Proof.Toolchain
end

section
/-! PROOFS. A step of a running machine, one equation per case of the instruction cycle (40_system R120), and which instruction is next. -/

namespace Sys2Proof.Machine

variable {s : State} {i : Instr}

/-- Outside memory the opcode fetch raises OutOfRange(pc) and only the status is changed (20_memory R54): the part every instruction's
rule shares. -/
theorem State.opcodeFetchRaises (s : State) : s.OpcodeFetchRaises := fun hr hg => by
  rw [step_of_running hr, State.cycle, State.withFetch_of_le hg]
  rfl

/-- A Word at pc that is no opcode is raised after the fetch has moved pc (60_exceptions R181). -/
theorem step_of_unknownOpcode (hr : s.Running) (hl : s.pc.toNat < s.cfg.memSize)
    (hd : s.cfg.decode (s.mem.read s.pc.toNat) = none) :
    step s = .next (s.advance.raise .unknownOpcode (s.mem.read s.pc.toNat)) := by
  simp [step_of_running hr, State.cycle, State.withFetch_of_lt hl, hd]

/-- A Word at pc that decodes is executed, pc moved past it. -/
theorem step_of_decode (hr : s.Running) (hl : s.pc.toNat < s.cfg.memSize)
    (hd : s.cfg.decode (s.mem.read s.pc.toNat) = some i) : step s = exec i s.advance := by
  simp [step_of_running hr, State.cycle, State.withFetch_of_lt hl, hd]

/-- The Word at pc is the value of the instruction that is next, also where it is given by its default number (decision D1). -/
theorem State.NextIs.read_eq_value {n : Nat} (h : s.NextIs i n) (hn : OpVal.default.value i = BitVec.ofNat 64 n) :
    s.mem.read s.pc.toNat = s.cfg.opval.value i := by
  obtain ⟨-, -, -, hw | ⟨hv, hw⟩⟩ := h
  · exact hw
  · rw [hw, hv, hn]

/-- The step executes the instruction that is next, whatever OPVAL is. -/
theorem State.NextIs.step_eq {n : Nat} (h : s.NextIs i n) (hn : OpVal.default.value i = BitVec.ofNat 64 n) :
    step s = exec i s.advance := by
  have hw := h.read_eq_value hn
  obtain ⟨hr, hwf, hl, -⟩ := h
  exact step_of_decode hr hl (hwf.decode_eq_some_iff.mpr hw)

end Sys2Proof.Machine
end

section
/-! PROOFS. HALT, NOOP, OUTA, and what a step makes of the status (40_system R120 to R124). -/

namespace Sys2Proof.Machine

variable {s t : State} {i : Instr}

/-- The effect of every instruction but HALT leaves the status. -/
theorem Effect.status_eq (h : Effect s t i) (hi : i ≠ .halt) : t.status = s.status := by
  cases i with
  | halt => exact absurd rfl hi
  | jinz | jneq => rcases h with ⟨-, rfl⟩ | ⟨-, rfl⟩ <;> rfl
  | _ => cases h; rfl

/-- What an execution makes of the status: it keeps it, or it is HALT and sets HALTED, or it has raised. -/
theorem exec_status_cases (h : exec i s = .next t) :
    t.status = s.status ∨ (i = .halt ∧ t.status = .halted) ∨ ∃ c w, t.status = .failed c w := by
  rcases exec_cases h with he | ⟨-, rfl⟩ | ⟨-, -, -, rfl⟩
  · by_cases hi : i = .halt
    · subst hi
      cases he
      exact .inr (.inl ⟨rfl, rfl⟩)
    · exact .inl (he.status_eq hi)
  · exact .inr (.inr ⟨_, _, rfl⟩)
  · exact .inr (.inr ⟨_, _, rfl⟩)

/-- Only HALT takes a running machine to HALTED. -/
theorem eq_halt_of_exec_halted (hs : s.status = .running) (h : exec i s = .next t) (ht : t.status = .halted) : i = .halt := by
  rcases exec_status_cases h with hk | ⟨hi, -⟩ | ⟨c, w, hf⟩
  · simp [hk, hs] at ht
  · exact hi
  · simp [hf] at ht

/-- After a step of a running machine the status is still RUNNING, unless the step executed HALT or raised. -/
theorem step_status_cases (hr : s.Running) (h : step s = .next t) :
    t.status = .running ∨ (t.status = .halted ∧ s.cfg.decode (s.mem.read s.pc.toNat) = some .halt) ∨
      ∃ c w, t.status = .failed c w := by
  rw [step_of_running hr] at h
  rcases State.cycle_cases h with ⟨-, rfl⟩ | ⟨-, -, rfl⟩ | ⟨-, i, hd, he⟩
  · exact .inr (.inr ⟨_, _, rfl⟩)
  · exact .inr (.inr ⟨_, _, rfl⟩)
  · rcases exec_status_cases he with hk | ⟨rfl, hh⟩ | hf
    · exact .inl (hk.trans hr.1)
    · exact .inr (.inl ⟨hh, hd⟩)
    · exact .inr (.inr hf)

/-- Settles O6: the step by `NextIs.step_eq`, the clause of HALT alone by `eq_halt_of_exec_halted`. -/
theorem haltStopsRun : Obligations.HaltStopsRun := by
  unfold Obligations.HaltStopsRun
  exact fun s => ⟨rfl, fun h => h.step_eq rfl, s.opcodeFetchRaises, fun _ _ => eq_halt_of_exec_halted⟩

/-- Settles O7: the step by `NextIs.step_eq`. -/
theorem noopChangesNothing : Obligations.NoopChangesNothing := by
  unfold Obligations.NoopChangesNothing
  exact fun s => ⟨rfl, fun h => h.step_eq rfl, s.opcodeFetchRaises⟩

/-- Settles O8: the step by `NextIs.step_eq`. -/
theorem outaAppendsA : Obligations.OutaAppendsA := by
  unfold Obligations.OutaAppendsA
  exact fun s => ⟨rfl, fun h => h.step_eq rfl, s.opcodeFetchRaises⟩

/-- Settles O4: one equation per case of the cycle, and `step_status_cases` for the status. -/
theorem stepRunsDecodedInstruction : Obligations.StepRunsDecodedInstruction := by
  unfold Obligations.StepRunsDecodedInstruction
  exact fun s hr => ⟨s.opcodeFetchRaises hr, step_of_unknownOpcode hr, fun _ => step_of_decode hr, fun _ => step_status_cases hr⟩

end Sys2Proof.Machine
end

section
/-! PROOFS. The functions of the ALU as numbers (41_arithmetic R130, R131). -/

namespace Sys2Proof.Machine

theorem toNat_aluInc (a : Word) : (aluInc a).toNat = (a.toNat + 1) % 2 ^ 64 := BitVec.toNat_add a 1

theorem toNat_aluAdd (a b : Word) : (aluAdd a b).toNat = (a.toNat + b.toNat) % 2 ^ 64 := BitVec.toNat_add a b

/-- The wrap at 0 is that of the remainder of -1, so the difference is taken in Int. -/
theorem toNat_aluDec (a : Word) : ((aluDec a).toNat : Int) = ((a.toNat : Int) - 1) % 2 ^ 64 := by
  have h : (aluDec a).toNat = (2 ^ 64 - 1 + a.toNat) % 2 ^ 64 := BitVec.toNat_sub a 1
  omega

theorem aluDec_eq_zero_iff {a : Word} : aluDec a = 0 ↔ a = 1 := sub_eq_zero

/-- Equal in all 64 bits is equal as numbers. -/
theorem aluEq_eq_decide_toNat (a b : Word) : aluEq a b = decide (a.toNat = b.toNat) :=
  decide_eq_decide.mpr BitVec.toNat_inj.symm

end Sys2Proof.Machine
end

section
/-! PROOFS. The operand word behind an opcode word, both inside memory or the opcode word at the last address (20_memory R54,
60_exceptions R187), and the jump taken to it (43_control_transfer R160). -/

namespace Sys2Proof.Machine

variable {s : State} {i : Instr} {f : Word → State → Result}

/-- Where an instruction is next, OPVAL tells the opcodes apart and MEMSIZE is within its bounds (00_scope R8, R9). -/
theorem State.NextIs.cfg_wf {n : Nat} (h : s.NextIs i n) : s.cfg.Wf := by
  obtain ⟨-, hwf, -⟩ := h
  exact hwf

/-- An opcode word inside memory leaves pc room to move past it without wrapping (00_scope R8, decision D3). -/
theorem State.toNat_advance_pc (hwf : s.cfg.Wf) (hl : s.pc.toNat < s.cfg.memSize) : s.advance.pc.toNat = s.pc.toNat + 1 := by
  obtain ⟨-, hmax, -⟩ := hwf
  rw [State.advance_pc]
  bv_omega

/-- After the opcode fetch an operand inside memory is the Word behind the opcode word, and pc goes two further. -/
theorem State.withOperand_advance_of_lt (hwf : s.cfg.Wf) (hl : s.pc.toNat + 1 < s.cfg.memSize) :
    s.advance.withOperand f = f (s.mem.read (s.pc.toNat + 1)) (s.setPc (s.pc + 2)) := by
  have hpc := State.toNat_advance_pc hwf (by omega)
  have hpast : s.advance.advance = s.setPc (s.pc + 2) := congrArg s.setPc (BitVec.add_assoc s.pc 1 1)
  rw [State.withOperand_of_lt (by rwa [hpc]), hpc, hpast, State.advance_mem]

/-- After the opcode fetch at the last address the operand fetch fails. -/
theorem State.withOperand_advance_of_eq (hwf : s.cfg.Wf) (hl : s.pc.toNat + 1 = s.cfg.memSize) :
    s.advance.withOperand f = .next s.operandFetchFailed := by
  have hpc : s.pc + 1 = BitVec.ofNat 64 s.cfg.memSize := by simp [← hl, BitVec.ofNat_add]
  have hge : s.advance.cfg.memSize ≤ s.advance.pc.toNat := by
    rw [State.toNat_advance_pc hwf (by omega), hl, State.advance_cfg]
  rw [State.withOperand_of_le hge, State.operandFetchFailed, ← hpc]
  rfl

/-- A jump whose operand is inside memory goes there. -/
theorem State.jumpToOperand_of_lt (hl : s.pc.toNat < s.cfg.memSize) :
    s.jumpToOperand = .next (s.setPc (s.mem.read s.pc.toNat)) := State.withOperand_of_lt hl

/-- A conditional jump that is taken is a jump to its operand. -/
theorem exec_of_taken (h : (i = .jinz ∧ s.i ≠ 0) ∨ (i = .jneq ∧ s.z = false)) : exec i s = s.jumpToOperand := by
  rcases h with ⟨rfl, hi⟩ | ⟨rfl, hz⟩
  · have htaken : s.indexNotZero = true := bne_iff_ne.mpr hi
    simp [exec, execJinz, htaken, State.branch]
  · simp [exec, execJneq, State.notEqual, hz, State.branch]

end Sys2Proof.Machine
end

section
/-! PROOFS. INCA, DECA, DECI, INCI, ADXY, CMPI (41_arithmetic R132 to R138). -/

namespace Sys2Proof.Machine

variable {s : State}

/-- Settles O9: the sum by `toNat_aluInc`, the step by `NextIs.step_eq`. -/
theorem incaAddsOneToA : Obligations.IncaAddsOneToA := by
  unfold Obligations.IncaAddsOneToA
  exact fun s => ⟨aluInc s.a, toNat_aluInc s.a, rfl, fun h => h.step_eq rfl, s.opcodeFetchRaises⟩

/-- Settles O10: the difference by `toNat_aluDec`, the step by `NextIs.step_eq`. -/
theorem decaSubtractsOneFromA : Obligations.DecaSubtractsOneFromA := by
  unfold Obligations.DecaSubtractsOneFromA
  exact fun s => ⟨aluDec s.a, toNat_aluDec s.a, rfl, fun h => h.step_eq rfl, s.opcodeFetchRaises⟩

/-- Settles O12: the sum by `toNat_aluInc`, the step by `NextIs.step_eq`. -/
theorem inciAddsOneToI : Obligations.InciAddsOneToI := by
  unfold Obligations.InciAddsOneToI
  exact fun s => ⟨aluInc s.i, toNat_aluInc s.i, rfl, fun h => h.step_eq rfl, s.opcodeFetchRaises⟩

/-- Settles O13: the sum by `toNat_aluAdd`, the step by `NextIs.step_eq`. -/
theorem adxyAddsXToY : Obligations.AdxyAddsXToY := by
  unfold Obligations.AdxyAddsXToY
  exact fun s => ⟨aluAdd s.y s.x, toNat_aluAdd s.y s.x, rfl, fun h => h.step_eq rfl, s.opcodeFetchRaises⟩

/-- JINZ with its operand word inside memory, both ways (43_control_transfer R161). -/
theorem exec_jinz_of_lt (hl : s.pc.toNat < s.cfg.memSize) :
    exec .jinz s = .next { s with pc := if s.i = 0 then s.pc + 1 else s.mem.read s.pc.toNat } := by
  split
  case isTrue hi => exact exec_of_not_taken (.inl ⟨rfl, hi⟩)
  case isFalse hi => exact (exec_of_taken (.inl ⟨rfl, hi⟩)).trans (State.jumpToOperand_of_lt hl)

/-- Settles O11: the difference by `toNat_aluDec`, the step by `NextIs.step_eq`, the JINZ that follows by `exec_jinz_of_lt`, where I is 0
exactly if it was 1. -/
theorem deciSubtractsOneFromI : Obligations.DeciSubtractsOneFromI := by
  unfold Obligations.DeciSubtractsOneFromI
  refine fun s => ⟨aluDec s.i, toNat_aluDec s.i, rfl, fun h => h.step_eq rfl, s.opcodeFetchRaises, ?_⟩
  rintro _ ⟨⟩ hl
  simpa only [State.reg_I, State.setReg_I, aluDec_eq_zero_iff] using exec_jinz_of_lt hl

/-- CMPI fetches its operand word and compares I with it (41_arithmetic R138). -/
theorem exec_cmpi (s : State) : exec .cmpi s = s.withOperand fun k t => .next (t.compare .I k) := rfl

/-- CMPI with its operand word inside memory (41_arithmetic R138). -/
theorem exec_cmpi_of_lt (hl : s.pc.toNat < s.cfg.memSize) :
    exec .cmpi s = .next (s.advance.setZ (aluEq s.i (s.mem.read s.pc.toNat))) :=
  (exec_cmpi s).trans (State.withOperand_of_lt hl)

/-- Settles O17: the operand by the rules of `withOperand`, in `s` for the execution and behind the opcode word for the step. -/
theorem cmpiSetsZToEquality : Obligations.CmpiSetsZToEquality := by
  unfold Obligations.CmpiSetsZToEquality
  simp only [← aluEq_eq_decide_toNat]
  refine fun s => ⟨exec_cmpi_of_lt, fun hg => ?_, fun h hl => ?_, fun h hl => ?_, s.opcodeFetchRaises⟩
  · exact (exec_cmpi s).trans (State.withOperand_of_le hg)
  · rw [h.step_eq rfl, exec_cmpi, State.withOperand_advance_of_lt h.cfg_wf hl]
    rfl
  · rw [h.step_eq rfl, exec_cmpi, State.withOperand_advance_of_eq h.cfg_wf hl]

end Sys2Proof.Machine
end

section
/-! PROOFS. A run step by step, and what each of its steps keeps. -/

namespace Sys2Proof.Machine

variable {M : Host.Core} {s t u : M.State} {α : Type}

/-- A run's first step. -/
theorem run_succ_of_step (h : M.step s = .next u) (n : Nat) : M.run (n + 1) s = M.run n u := by
  simp [Host.Core.run, h]

/-- If a run of one step more answers a state, its first step does, and the run from there. -/
theorem exists_of_run_succ {n : Nat} (h : M.run (n + 1) s = .next t) : ∃ u, M.step s = .next u ∧ M.run n u = .next t := by
  cases hs : M.step s with
  | next u => exact ⟨u, rfl, by rwa [run_succ_of_step hs] at h⟩
  | fault _ | refused _ => simp [Host.Core.run, hs] at h

/-- A run keeps a part of the state that each step keeps from the states with `Q`, if each state before its last has `Q`. -/
theorem run_keeps {get : M.State → α} {Q : M.State → Prop} (hstep : ∀ s t, Q s → M.step s = .next t → get t = get s) {n : Nat}
    (h : M.run n s = .next t) (hQ : ∀ m u, m < n → M.run m s = .next u → Q u) : get t = get s := by
  induction n generalizing s with
  | zero =>
    cases h
    rfl
  | succ n ih =>
    obtain ⟨u, hu, hrun⟩ := exists_of_run_succ h
    have hrest : get t = get u :=
      ih hrun fun m v hm hv => hQ (m + 1) v (by omega) ((run_succ_of_step hu m).trans hv)
    exact hrest.trans (hstep s u (hQ 0 s (by omega) rfl) hu)

end Sys2Proof.Machine
end

section
/-! PROOFS. Z between two CMPI (41_arithmetic R139). -/

namespace Sys2Proof.Machine

variable {s t u : State}

/-- The gate before the fetch changes nothing but IN, the snapshots and the hold (60_exceptions R200). -/
theorem State.debugGate_frame (h : s.debugGate = .proceed u ∨ s.debugGate = .wait u) :
    ∃ inp snaps hold, u = { s with inp := inp, snaps := snaps, hold := hold } := by
  have hrender : ∃ snaps hold, s.renderSnapshot = { s with snaps := snaps, hold := hold } := by
    unfold State.renderSnapshot
    split <;> exact ⟨_, _, rfl⟩
  obtain ⟨snaps, hold, hrender⟩ := hrender
  rcases State.debugGate_cases (s := s) with ⟨-, hg⟩ | ⟨-, rest, -, hg⟩ | ⟨-, -, -, hg⟩ | ⟨-, -, -, hg⟩
  all_goals simp only [hg, Gate.proceed.injEq, Gate.wait.injEq, reduceCtorEq, or_false, false_or] at h
  all_goals subst h
  · exact ⟨_, _, _, rfl⟩
  · exact ⟨rest, snaps, false, by rw [hrender]; rfl⟩
  · exact ⟨_, snaps, hold, hrender⟩

/-- The instruction cycle keeps Z where the Word at pc is no CMPI. -/
theorem State.cycle_keeps_z (hc : s.cfg.decode (s.mem.read s.pc.toNat) ≠ some .cmpi) (h : s.cycle = .next t) : t.z = s.z := by
  rcases State.cycle_cases h with ⟨-, rfl⟩ | ⟨-, -, rfl⟩ | ⟨-, i, hd, he⟩
  · rfl
  · rfl
  · have hi : i ≠ .cmpi := fun hi => hc (hd.trans (congrArg some hi))
    exact (exec_keeps_z hi he).trans s.advance_z

/-- A step keeps Z unless the machine is running with a CMPI at its pc. -/
theorem step_keeps_z (hc : s.status = .running → s.cfg.decode (s.mem.read s.pc.toNat) ≠ some .cmpi) (h : step s = .next t) :
    t.z = s.z := by
  rcases step_cases h with ⟨-, rfl⟩ | ⟨-, hg⟩ | ⟨hr, u, hg, hcyc⟩
  · rfl
  · obtain ⟨_, _, _, rfl⟩ := State.debugGate_frame (.inr hg)
    rfl
  · obtain ⟨inp, snaps, hold, rfl⟩ := State.debugGate_frame (.inl hg)
    exact State.cycle_keeps_z (s := { s with inp, snaps, hold }) (hc hr) hcyc

/-- Settles O27: CMPI by `exec_cmpi_of_lt`, the run by `run_keeps` over `step_keeps_z`. -/
theorem zKeptUntilNextCompare : Obligations.ZKeptUntilNextCompare := by
  unfold Obligations.ZKeptUntilNextCompare
  refine ⟨fun s t hl h => ?_, fun n s t h hc => ?_⟩
  · cases (exec_cmpi_of_lt hl).symm.trans h
    rfl
  · exact run_keeps (M := Sys2Proof.core) (get := State.z) (fun _ _ => step_keeps_z) h hc

end Sys2Proof.Machine
end

section
/-! PROOFS. The step of an instruction that fetches its operand word and goes on with it: the operand inside memory, or the opcode word at
the last address (20_memory R54, 60_exceptions R187). -/

namespace Sys2Proof.Machine

variable {s : State} {i : Instr} {n : Nat} {f : Word → State → Result}

/-- The operand is the Word behind the opcode word, and the rest runs with pc two further. -/
theorem State.NextIs.step_of_operand_inside (h : s.NextIs i n) (hn : OpVal.default.value i = BitVec.ofNat 64 n)
    (he : ∀ s, exec i s = s.withOperand f) (hl : s.pc.toNat + 1 < s.cfg.memSize) :
    step s = f (s.mem.read (s.pc.toNat + 1)) (s.setPc (s.pc + 2)) := by
  rw [h.step_eq hn, he, State.withOperand_advance_of_lt h.cfg_wf hl]

/-- At the last address the operand fetch fails, whatever the rest of the instruction is. -/
theorem State.NextIs.step_of_operand_outside (h : s.NextIs i n) (hn : OpVal.default.value i = BitVec.ofNat 64 n)
    (he : ∀ s, exec i s = s.withOperand f) (hl : s.pc.toNat + 1 = s.cfg.memSize) : step s = .next s.operandFetchFailed := by
  rw [h.step_eq hn, he, State.withOperand_advance_of_eq h.cfg_wf hl]

end Sys2Proof.Machine
end

section
/-! PROOFS. The writers of the general registers (10_state R22 to R25), and SETA, SETI, MVAY, MVAX, MVYA (42_moves R151 to R155). -/

namespace Sys2Proof.Machine

variable {s t : State} {i : Instr} {r : Reg}

/-- Setting a register an instruction writes leaves the registers it is no writer of. -/
theorem State.reg_setReg_of_writer {q : Reg} {v : Word} (hw : i ∈ q.writers) (hi : i ∉ r.writers) :
    (s.setReg q v).reg r = s.reg r := by
  rw [State.reg_setReg, if_neg]
  rintro rfl
  exact hi hw

/-- The effect of an instruction leaves the registers it is no writer of. -/
theorem Effect.reg_eq (h : Effect s t i) (hi : i ∉ r.writers) : t.reg r = s.reg r := by
  cases i with
  | jinz | jneq => rcases h with ⟨-, rfl⟩ | ⟨-, rfl⟩ <;> simp
  | halt | noop | outa | jump | cmpi => cases h; simp
  | inca | deca | deci | mvay | adxy | mvax | mvya | inci =>
    cases h
    exact State.reg_setReg_of_writer (by decide) hi
  | seta | seti | ldai =>
    cases h
    exact (State.reg_setReg_of_writer (by decide) hi).trans (s.reg_advance r)

/-- An execution leaves the registers its instruction is no writer of; raising leaves all of them. -/
theorem exec_keeps_reg (h : exec i s = .next t) (hi : i ∉ r.writers) : t.reg r = s.reg r := by
  rcases exec_cases h with he | ⟨-, rfl⟩ | ⟨-, -, -, rfl⟩
  · exact he.reg_eq hi
  · simp
  · simp

/-- MVAX is the only writer of X (42_moves R154). -/
theorem eq_mvax_of_exec_writes_x (h : exec i s = .next t) (hx : t.x ≠ s.x) : i = .mvax := by
  by_contra hi
  exact hx (exec_keeps_reg (r := .X) h (by simpa [Reg.writers] using hi))

/-- Settles O14: the step by `NextIs.step_eq`. -/
theorem mvayCopiesAToY : Obligations.MvayCopiesAToY := by
  unfold Obligations.MvayCopiesAToY
  exact fun s => ⟨rfl, fun h => h.step_eq rfl, s.opcodeFetchRaises⟩

/-- Settles O15: the step by `NextIs.step_eq`, the clause of MVAX alone by `eq_mvax_of_exec_writes_x`. -/
theorem mvaxCopiesAToX : Obligations.MvaxCopiesAToX := by
  unfold Obligations.MvaxCopiesAToX
  exact fun s => ⟨rfl, fun h => h.step_eq rfl, s.opcodeFetchRaises, fun _ _ => eq_mvax_of_exec_writes_x⟩

/-- Settles O16: the step by `NextIs.step_eq`. -/
theorem mvyaCopiesYToA : Obligations.MvyaCopiesYToA := by
  unfold Obligations.MvyaCopiesYToA
  exact fun s => ⟨rfl, fun h => h.step_eq rfl, s.opcodeFetchRaises⟩

/-- SETA fetches its operand word and puts it into A (42_moves R151). -/
theorem exec_seta (s : State) : exec .seta s = s.withOperand fun k t => .next (t.setReg .A k) := rfl

/-- SETI fetches its operand word and puts it into I (42_moves R152). -/
theorem exec_seti (s : State) : exec .seti s = s.withOperand fun k t => .next (t.setReg .I k) := rfl

/-- SETI with its operand word inside memory (42_moves R152). -/
theorem exec_seti_of_lt (hl : s.pc.toNat < s.cfg.memSize) :
    exec .seti s = .next (s.advance.setReg .I (s.mem.read s.pc.toNat)) :=
  (exec_seti s).trans (State.withOperand_of_lt hl)

/-- Settles O18: the execution by the rules of `withOperand`, the step by those of an operand behind the opcode word. -/
theorem setaLoadsOperand : Obligations.SetaLoadsOperand := by
  unfold Obligations.SetaLoadsOperand
  refine fun s => ⟨fun hl => ?_, fun hg => ?_, fun h => ?_, fun h => ?_, s.opcodeFetchRaises⟩
  · exact (exec_seta s).trans (State.withOperand_of_lt hl)
  · exact (exec_seta s).trans (State.withOperand_of_le hg)
  · exact h.step_of_operand_inside rfl exec_seta
  · exact h.step_of_operand_outside rfl exec_seta

/-- Settles O19: as for SETA, and a JINZ executed with I zero is one not taken (`exec_of_not_taken`). -/
theorem setiLoadsOperand : Obligations.SetiLoadsOperand := by
  unfold Obligations.SetiLoadsOperand
  refine fun s => ⟨exec_seti_of_lt, fun hg => ?_, fun h => ?_, fun h => ?_, s.opcodeFetchRaises, fun t hl hz h => ?_⟩
  · exact (exec_seti s).trans (State.withOperand_of_le hg)
  · exact h.step_of_operand_inside rfl exec_seti
  · exact h.step_of_operand_outside rfl exec_seti
  · cases (exec_seti_of_lt hl).symm.trans h
    exact exec_of_not_taken (.inl ⟨rfl, hz⟩)

end Sys2Proof.Machine
end

section
/-! PROOFS. JUMP (43_control_transfer R163). -/

namespace Sys2Proof.Machine

variable {s : State}

/-- JUMP fetches its operand word and puts it into pc (43_control_transfer R163). -/
theorem exec_jump (s : State) : exec .jump s = s.withOperand fun k t => .next (t.setPc k) := rfl

/-- JUMP with its operand word inside memory goes there, unchecked (43_control_transfer R163, 10_state R33). -/
theorem exec_jump_of_lt (hl : s.pc.toNat < s.cfg.memSize) : exec .jump s = .next (s.setPc (s.mem.read s.pc.toNat)) :=
  State.jumpToOperand_of_lt hl

/-- Settles O20: the execution by the rules of `withOperand`, the step by those of an operand behind the opcode word; a target outside
memory is written all the same, and the next opcode fetch raises there (`opcodeFetchRaises`). -/
theorem jumpGoesToOperand : Obligations.JumpGoesToOperand := by
  unfold Obligations.JumpGoesToOperand
  refine fun s => ⟨exec_jump_of_lt, fun hg => ?_, fun h => ?_, fun h => ?_, s.opcodeFetchRaises, fun t hr hl hk h => ?_⟩
  · exact (exec_jump s).trans (State.withOperand_of_le hg)
  · exact h.step_of_operand_inside rfl exec_jump
  · exact h.step_of_operand_outside rfl exec_jump
  · cases (exec_jump_of_lt hl).symm.trans h
    exact State.opcodeFetchRaises _ hr hk

end Sys2Proof.Machine
end

section
/-! PROOFS. LDAI (44_load R170 to R172). -/

namespace Sys2Proof.Machine

variable {s : State} {k ea : Word}

/-- What LDAI does with its operand word `k`, once that is fetched: the data read at the indexed address, into A (44_load R171). -/
def State.loadIndexed (s : State) (k : Word) : Result := s.withRead (s.indexedAddr k) fun v => .next (s.setReg .A v)

/-- LDAI fetches its operand word and loads through it (44_load R171). -/
theorem exec_ldai (s : State) : exec .ldai s = s.withOperand fun k t => t.loadIndexed k := rfl

/-- The indexed address is the Word that is the wrapped sum of I and the operand (44_load R170, decision D8). -/
theorem State.eq_indexedAddr (hea : ea.toNat = (s.i.toNat + k.toNat) % 2 ^ 64) : ea = s.indexedAddr k :=
  BitVec.eq_of_toNat_eq (hea.trans (toNat_aluAdd s.i k).symm)

/-- The load through the operand, for both ranges of the wrapped sum: the sum wraps first, then it is checked (44_load R171, R172). -/
theorem State.loadIndexed_of_toNat_eq (hea : ea.toNat = (s.i.toNat + k.toNat) % 2 ^ 64) :
    (ea.toNat < s.cfg.memSize → s.loadIndexed k = .next (s.setReg .A (s.mem.read ea.toNat))) ∧
      (s.cfg.memSize ≤ ea.toNat → s.loadIndexed k = .next (s.raise .outOfRange ea)) := by
  obtain rfl := State.eq_indexedAddr hea
  exact ⟨State.withRead_of_lt, State.withRead_of_le⟩

/-- Settles O23: the operand by the rules of `withOperand` for the execution, by those of an operand behind the opcode word for the step;
what is left is `loadIndexed` with pc one further, or two. -/
theorem ldaiLoadsIndexedWord : Obligations.LdaiLoadsIndexedWord := by
  unfold Obligations.LdaiLoadsIndexedWord
  refine fun s => ⟨fun ea hl hea => ?_, fun hg => ?_, fun ea h hl hea => ?_, fun h => ?_, s.opcodeFetchRaises⟩
  · rw [exec_ldai, State.withOperand_of_lt hl]
    exact State.loadIndexed_of_toNat_eq (s := s.advance) hea
  · exact (exec_ldai s).trans (State.withOperand_of_le hg)
  · rw [h.step_of_operand_inside rfl exec_ldai hl]
    exact State.loadIndexed_of_toNat_eq (s := s.setPc (s.pc + 2)) hea
  · exact h.step_of_operand_outside rfl exec_ldai

end Sys2Proof.Machine
end

section
/-! PROOFS. The failing access of a step, and the state it leaves (60_exceptions R181, R182, R186). -/

namespace Sys2Proof.Machine

variable {s t : State} {i : Instr} {c : Cause} {w : Word}

/-- The effect of an instruction is never a failure. -/
theorem Effect.status_ne_failed (h : Effect s t i) (hs : s.status = .running) : t.status ≠ .failed c w := by
  by_cases hi : i = .halt
  · subst hi
    cases h
    simp
  · simp [h.status_eq hi, hs]

/-- An execution that fails has raised OutOfRange, at its operand fetch or, with pc past the operand, at LDAI's data read. -/
theorem exec_failed_cases (hs : s.status = .running) (h : exec i s = .next t) (ht : t.status = .failed c w) :
    c = .outOfRange ∧ ((s.cfg.memSize ≤ s.pc.toNat ∧ w = s.pc ∧ t = s.raise c w) ∨
      (i = .ldai ∧ s.pc.toNat < s.cfg.memSize ∧ s.cfg.memSize ≤ w.toNat ∧
        w = s.i + s.mem.read s.pc.toNat ∧ t = s.advance.raise c w)) := by
  rcases exec_cases h with he | ⟨hg, rfl⟩ | ⟨hi, hl, hg, rfl⟩
  · exact absurd ht (he.status_ne_failed hs)
  · cases ht
    exact ⟨rfl, .inl ⟨hg, rfl, rfl⟩⟩
  · cases ht
    exact ⟨rfl, .inr ⟨hi, hl, hg, rfl, rfl⟩⟩

/-- A step that fails has raised at one of four accesses, pc moved by the fetches before it: the opcode fetch, the decoding of the
Word fetched, the operand fetch, LDAI's data read (60_exceptions R187). -/
theorem step_failed_cases (hr : s.Running) (h : step s = .next t) (ht : t.status = .failed c w) :
    (s.cfg.memSize ≤ s.pc.toNat ∧ c = .outOfRange ∧ w = s.pc ∧ t = s.raise c w) ∨
      (s.pc.toNat < s.cfg.memSize ∧ s.cfg.decode (s.mem.read s.pc.toNat) = none ∧ c = .unknownOpcode ∧
        w = s.mem.read s.pc.toNat ∧ t = s.advance.raise c w) ∨
      (s.pc.toNat < s.cfg.memSize ∧ s.cfg.decode (s.mem.read s.pc.toNat) ≠ none ∧
        s.cfg.memSize ≤ (s.pc + 1).toNat ∧ c = .outOfRange ∧ w = s.pc + 1 ∧ t = s.advance.raise c w) ∨
      (s.pc.toNat < s.cfg.memSize ∧ s.cfg.decode (s.mem.read s.pc.toNat) = some .ldai ∧
        (s.pc + 1).toNat < s.cfg.memSize ∧ s.cfg.memSize ≤ w.toNat ∧ c = .outOfRange ∧
        w = s.i + s.mem.read (s.pc + 1).toNat ∧ t = (s.setPc (s.pc + 2)).raise c w) := by
  have hpast : s.advance.advance = s.setPc (s.pc + 2) := congrArg s.setPc (BitVec.add_assoc s.pc 1 1)
  rw [step_of_running hr] at h
  rcases State.cycle_cases h with ⟨hg, rfl⟩ | ⟨hl, hd, rfl⟩ | ⟨hl, i, hd, he⟩
  · cases ht
    exact .inl ⟨hg, rfl, rfl, rfl⟩
  · cases ht
    exact .inr (.inl ⟨hl, hd, rfl, rfl, rfl⟩)
  · obtain ⟨hc, ⟨hg, hw, rfl⟩ | ⟨rfl, hlo, hg, hw, rfl⟩⟩ := exec_failed_cases (s := s.advance) hr.1 he ht
    · exact .inr (.inr (.inl ⟨hl, by simp [hd], hg, hc, hw, rfl⟩))
    · exact .inr (.inr (.inr ⟨hl, hd, hlo, hg, hc, hw, by rw [hpast]⟩))

/-- Settles O34: raising by `State.raise_eq`, the failing access and the pc it leaves by `step_failed_cases`. -/
theorem failedStepChangesOnlyPcAndStatus : Obligations.FailedStepChangesOnlyPcAndStatus := by
  unfold Obligations.FailedStepChangesOnlyPcAndStatus
  refine ⟨fun s => State.raise_eq, fun s t c w hr h ht => ⟨by simp [ht], ?_⟩⟩
  rcases step_failed_cases hr h ht with ⟨hg, hc, hw, rfl⟩ | ⟨hl, hd, hc, hw, rfl⟩ | ⟨hl, hd, hg, hc, hw, rfl⟩ |
    ⟨hl, hd, hlo, hg, hc, -, rfl⟩
  · exact ⟨rfl, .inl ⟨hg, hc, hw, rfl⟩⟩
  · exact ⟨rfl, .inr (.inl ⟨hl, hd, hc, hw, rfl⟩)⟩
  · exact ⟨rfl, .inr (.inr (.inl ⟨hl, hd, hg, hc, hw, rfl⟩))⟩
  · exact ⟨rfl, .inr (.inr (.inr ⟨hl, hd, hlo, hg, hc, rfl⟩))⟩

end Sys2Proof.Machine
end

section
/-! PROOFS. Every running machine with Debug false answers a next state (40_system R120), and that state is again one or has ended. -/

namespace Sys2Proof.Machine

variable {s t : State}

/-- A read answers a next state if what follows it does: outside memory it raises, which is a next state too. -/
theorem State.withRead_answers {a : Word} {f : Word → Result} (hf : ∀ w, ∃ t, f w = .next t) : ∃ t, s.withRead a f = .next t := by
  rcases Nat.lt_or_ge a.toNat s.cfg.memSize with hl | hg
  · rw [State.withRead_of_lt hl]
    exact hf _
  · exact ⟨_, State.withRead_of_le hg⟩

/-- A fetch answers a next state if what follows it does. -/
theorem State.withFetch_answers {f : Word → State → Result} (hf : ∀ w u, ∃ t, f w u = .next t) : ∃ t, s.withFetch f = .next t :=
  State.withRead_answers fun w => hf w s.advance

/-- A conditional jump answers a next state, taken or not. -/
theorem State.branch_answers (taken : Bool) : ∃ t, s.branch taken = .next t := by
  cases taken with
  | true => exact State.withFetch_answers fun _ _ => ⟨_, rfl⟩
  | false => exact ⟨_, rfl⟩

/-- Executing an instruction answers a next state. -/
theorem exec_answers (i : Instr) (s : State) : ∃ t, exec i s = .next t := by
  cases i with
  | seta | seti | cmpi | jump => exact State.withFetch_answers fun _ _ => ⟨_, rfl⟩
  | ldai => exact State.withFetch_answers fun k u => State.withRead_answers (a := u.indexedAddr k) fun v => ⟨u.setReg .A v, rfl⟩
  | jinz | jneq => exact State.branch_answers _
  | _ => exact ⟨_, rfl⟩

/-- The instruction cycle answers a next state. -/
theorem State.cycle_answers (s : State) : ∃ t, s.cycle = .next t := by
  refine State.withFetch_answers fun w u => ?_
  cases hd : u.cfg.decode w with
  | none => exact ⟨_, rfl⟩
  | some i => exact exec_answers i u

/-- The instruction cycle keeps the Debug switch. -/
theorem State.cycle_keeps_debug (h : s.cycle = .next t) : t.debug = s.debug := by
  rcases State.cycle_cases h with ⟨-, rfl⟩ | ⟨-, -, rfl⟩ | ⟨-, i, -, he⟩
  · rfl
  · rfl
  · obtain ⟨-, -, -, -, hdebug, -, -⟩ := exec_keeps he
    exact hdebug

/-- The two ways a run ends (70_reset R216). -/
abbrev State.HaltedOrFailed (s : State) : Prop := s.status = .halted ∨ ∃ c w, s.status = .failed c w

/-- A running machine with Debug false answers its step, and runs on with Debug false or has halted or failed. -/
theorem exists_step_of_running (hr : s.Running) : ∃ t, step s = .next t ∧ (t.Running ∨ t.HaltedOrFailed) := by
  obtain ⟨t, ht⟩ := s.cycle_answers
  have hstep : step s = .next t := (step_of_running hr).trans ht
  refine ⟨t, hstep, ?_⟩
  rcases step_status_cases hr hstep with hrun | ⟨hhalt, -⟩ | hfail
  · exact .inl ⟨hrun, (State.cycle_keeps_debug ht).trans hr.2⟩
  · exact .inr (.inl hhalt)
  · exact .inr (.inr hfail)

end Sys2Proof.Machine
end

section
/-! PROOFS. The run loop (70_reset R216): one equation per case, the two ways it comes out, and the first state that is not running. -/

namespace Sys2Proof.Machine

variable {s t : State} {n m : Nat}

/-- A machine halted or failed is not running. -/
theorem State.HaltedOrFailed.ended (h : s.HaltedOrFailed) : s.Ended := by
  rcases h with h | ⟨c, w, h⟩ <;> simp [h]

/-- The loop ends at once in a machine that is not running. -/
theorem runLoop_of_ended (h : s.Ended) (n : Nat) : runLoop n s = .ended s := by
  cases n <;> exact if_neg h

/-- With no turn left, a running machine has used up the bound. -/
theorem runLoop_zero_of_running (hs : s.status = .running) : runLoop 0 s = .outOfFuel s := if_pos hs

/-- While the machine runs, the loop is one step and then the loop again. -/
theorem runLoop_succ_of_step (hs : s.status = .running) (h : step s = .next t) (n : Nat) : runLoop (n + 1) s = runLoop n t := by
  simp [runLoop, hs, h]

/-- If the loop ends within a bound of one turn more from a running machine, that machine's step answers, and the loop ends from there. -/
theorem exists_of_runLoop_succ (hs : s.status = .running) (h : runLoop (n + 1) s = .ended t) :
    ∃ u, step s = .next u ∧ runLoop n u = .ended t := by
  cases hstep : step s with
  | next u => exact ⟨u, rfl, by rwa [runLoop_succ_of_step hs hstep] at h⟩
  | fault f => cases f
  | refused r => simp [runLoop, hs, hstep] at h

/-- With Debug false the loop ends halted or failed, or uses up its bound; no step of it is refused. -/
theorem runLoop_cases (hr : s.Running) (n : Nat) :
    (∃ t, runLoop n s = .ended t ∧ t.HaltedOrFailed) ∨ ∃ t, runLoop n s = .outOfFuel t := by
  induction n generalizing s with
  | zero => exact .inr ⟨s, runLoop_zero_of_running hr.1⟩
  | succ n ih =>
    obtain ⟨u, hu, hcont | hend⟩ := exists_step_of_running hr
    · rw [runLoop_succ_of_step hr.1 hu]
      exact ih hcont
    · rw [runLoop_succ_of_step hr.1 hu]
      exact .inl ⟨u, runLoop_of_ended hend.ended n, hend⟩

/-- From `s` the first state that is not running is `t`, reached by `m` steps (70_reset R216). -/
def State.EndsAfter (s : State) (m : Nat) (t : State) : Prop :=
  Host.Core.run Sys2Proof.core m s = .next t ∧ t.Ended ∧
    ∀ k, k < m → ∃ u, Host.Core.run Sys2Proof.core k s = .next u ∧ u.status = .running

/-- By no step: the state itself is not running. -/
theorem State.endsAfter_zero_iff : s.EndsAfter 0 t ↔ s.Ended ∧ t = s := by
  constructor
  · rintro ⟨⟨⟩, ht, -⟩
    exact ⟨ht, rfl⟩
  · rintro ⟨hs, rfl⟩
    exact ⟨rfl, hs, fun k hk => absurd hk (Nat.not_lt_zero k)⟩

/-- By one step more: the machine runs, and its step leads to a state from which the rest does. -/
theorem State.endsAfter_succ_iff : s.EndsAfter (m + 1) t ↔ s.status = .running ∧ ∃ u, step s = .next u ∧ u.EndsAfter m t := by
  constructor
  · rintro ⟨hrun, ht, hbefore⟩
    obtain ⟨u, hu, hrest⟩ := exists_of_run_succ hrun
    refine ⟨?_, u, hu, hrest, ht, fun k hk => ?_⟩
    · obtain ⟨_, ⟨⟩, hs⟩ := hbefore 0 (Nat.succ_pos m)
      exact hs
    · rw [← run_succ_of_step hu]
      exact hbefore (k + 1) (Nat.succ_lt_succ hk)
  · rintro ⟨hs, u, hu, hrest, ht, hbefore⟩
    have hsucc := run_succ_of_step (M := Sys2Proof.core) hu
    refine ⟨(hsucc m).trans hrest, ht, fun k hk => ?_⟩
    cases k with
    | zero => exact ⟨s, rfl, hs⟩
    | succ k =>
      rw [hsucc]
      exact hbefore k (Nat.lt_of_succ_lt_succ hk)

/-- A first state not running, reached within the bound, is where the loop ends. -/
theorem State.EndsAfter.runLoop_eq (h : s.EndsAfter m t) (hle : m ≤ n) : runLoop n s = .ended t := by
  induction m generalizing s n with
  | zero =>
    obtain ⟨hs, rfl⟩ := State.endsAfter_zero_iff.mp h
    exact runLoop_of_ended hs n
  | succ m ih =>
    obtain ⟨hs, u, hu, hrest⟩ := State.endsAfter_succ_iff.mp h
    obtain ⟨n, rfl⟩ := Nat.exists_eq_add_one_of_ne_zero (Nat.ne_zero_of_lt hle)
    rw [runLoop_succ_of_step hs hu]
    exact ih hrest (Nat.le_of_succ_le_succ hle)

/-- Where the loop ends, a first state not running has been reached within the bound. -/
theorem exists_endsAfter_of_runLoop (h : runLoop n s = .ended t) : ∃ m, m ≤ n ∧ s.EndsAfter m t := by
  induction n generalizing s with
  | zero =>
    by_cases hs : s.status = .running
    · simp [runLoop_zero_of_running hs] at h
    · cases (runLoop_of_ended hs 0).symm.trans h
      exact ⟨0, Nat.le_refl 0, State.endsAfter_zero_iff.mpr ⟨hs, rfl⟩⟩
  | succ n ih =>
    by_cases hs : s.status = .running
    · obtain ⟨u, hu, hloop⟩ := exists_of_runLoop_succ hs h
      obtain ⟨m, hle, hrest⟩ := ih hloop
      exact ⟨m + 1, Nat.succ_le_succ hle, State.endsAfter_succ_iff.mpr ⟨hs, u, hu, hrest⟩⟩
    · cases (runLoop_of_ended hs (n + 1)).symm.trans h
      exact ⟨0, Nat.zero_le _, State.endsAfter_zero_iff.mpr ⟨hs, rfl⟩⟩

/-- The loop under a bound ends in `t` exactly when `t` is the first state not running and is reached within the bound. -/
theorem runLoop_eq_ended_iff : runLoop n s = .ended t ↔ ∃ m, m ≤ n ∧ s.EndsAfter m t :=
  ⟨exists_endsAfter_of_runLoop, fun ⟨_, hle, h⟩ => h.runLoop_eq hle⟩

/-- A larger bound changes nothing about a run that ends. -/
theorem runLoop_mono (h : runLoop n s = .ended t) (hle : n ≤ m) : runLoop m s = .ended t := by
  obtain ⟨k, hk, hend⟩ := exists_endsAfter_of_runLoop h
  exact hend.runLoop_eq (hk.trans hle)

/-- Settles O46: the turn by `runLoop_succ_of_step`, the ways out by `runLoop_cases`, the bound by `runLoop_mono`, the first state not
running by `runLoop_eq_ended_iff`. -/
theorem runEndsOnlyHaltedOrFailed : Obligations.RunEndsOnlyHaltedOrFailed := by
  unfold Obligations.RunEndsOnlyHaltedOrFailed
  intro s n hr
  obtain ⟨u, hu, -⟩ := exists_step_of_running hr
  refine ⟨⟨u, hu, runLoop_succ_of_step hr.1 hu n⟩, fun t ht => ⟨?_, fun m => runLoop_mono ht⟩, fun r h => ?_,
    fun _ => runLoop_eq_ended_iff⟩
  all_goals obtain ⟨v, hv, hend⟩ | ⟨v, hv⟩ := runLoop_cases hr n
  · cases hv.symm.trans ht
    exact hend
  · cases hv.symm.trans ht
  · cases hv.symm.trans h
  · cases hv.symm.trans h

end Sys2Proof.Machine
end

section
/-! PROOFS. What the instruction cycle keeps, and the Words it adds to OUT (20_memory R57, 10_state R40). -/

namespace Sys2Proof.Machine

variable {s t : State} {i : Instr}

/-- The effect of an instruction leaves OUT alone, or it is OUTA and appends A. -/
theorem Effect.out_cases (h : Effect s t i) : t.out = s.out ∨ (i = .outa ∧ t.out = s.out ++ [s.a]) := by
  cases i with
  | outa => cases h; exact .inr ⟨rfl, rfl⟩
  | jinz | jneq => rcases h with ⟨-, rfl⟩ | ⟨-, rfl⟩ <;> exact .inl rfl
  | _ => cases h; exact .inl rfl

/-- An execution leaves OUT alone, or it is OUTA and appends A; raising leaves it. -/
theorem exec_out_cases (h : exec i s = .next t) : t.out = s.out ∨ (i = .outa ∧ t.out = s.out ++ [s.a]) := by
  rcases exec_cases h with he | ⟨-, rfl⟩ | ⟨-, -, -, rfl⟩
  · exact he.out_cases
  · exact .inl rfl
  · exact .inl rfl

/-- The instruction cycle leaves OUT alone, or the Word at pc is OUTA and A is appended. -/
theorem State.cycle_out_cases (h : s.cycle = .next t) :
    t.out = s.out ∨ (s.pc.toNat < s.cfg.memSize ∧ s.cfg.decode (s.mem.read s.pc.toNat) = some .outa ∧ t.out = s.out ++ [s.a]) := by
  rcases State.cycle_cases h with ⟨-, rfl⟩ | ⟨-, -, rfl⟩ | ⟨hl, i, hd, he⟩
  · exact .inl rfl
  · exact .inl rfl
  · rcases exec_out_cases he with ho | ⟨rfl, ho⟩
    · exact .inl ho
    · exact .inr ⟨hl, hd, ho⟩

/-- What the instruction cycle never changes: as for an execution (`exec_keeps`). -/
theorem State.cycle_keeps (h : s.cycle = .next t) :
    t.cfg = s.cfg ∧ t.mem = s.mem ∧ t.inp = s.inp ∧ t.inpClosed = s.inpClosed ∧ t.debug = s.debug ∧ t.snaps = s.snaps ∧
      t.hold = s.hold := by
  rcases State.cycle_cases h with ⟨-, rfl⟩ | ⟨-, -, rfl⟩ | ⟨-, i, -, he⟩
  · simp
  · simp
  · exact exec_keeps (s := s.advance) he

end Sys2Proof.Machine
end

section
/-! PROOFS. The invariant through the parts of a step: the gate before the fetch, then the cycle (60_exceptions R181, R182, R200). -/

namespace Sys2Proof.Machine

variable {s t : State} {i : Instr}

/-- An OutOfRange raised for an address outside memory is a failure that is one. -/
theorem State.failureOk_raise_outOfRange {a : Word} (hg : s.cfg.memSize ≤ a.toNat) : (s.raise .outOfRange a).failureOk = true :=
  decide_eq_true hg

/-- An UnknownOpcode raised for a Word that does not decode is a failure that is one. -/
theorem State.failureOk_raise_unknownOpcode {w : Word} (hd : s.cfg.decode w = none) :
    (s.raise .unknownOpcode w).failureOk = true := Option.isNone_iff_eq_none.mpr hd

/-- Without a failure there is none to check. -/
theorem State.failureOk_of_not_failed (h : ∀ c w, s.status ≠ .failed c w) : s.failureOk = true := by
  unfold State.failureOk
  split
  · exact absurd ‹_› (h _ _)
  · exact absurd ‹_› (h _ _)
  all_goals rfl

/-- An execution in a running machine records no failure that is none: raising is checked, and no effect is a failure. -/
theorem exec_failureOk (hs : s.status = .running) (h : exec i s = .next t) : t.failureOk = true := by
  rcases exec_cases h with he | ⟨hg, rfl⟩ | ⟨-, -, hg, rfl⟩
  · exact State.failureOk_of_not_failed fun _ _ => he.status_ne_failed hs
  · exact State.failureOk_raise_outOfRange hg
  · exact State.failureOk_raise_outOfRange (s := s.advance) hg

/-- The instruction cycle in a running machine records no failure that is none. -/
theorem State.cycle_failureOk (hs : s.status = .running) (h : s.cycle = .next t) : t.failureOk = true := by
  rcases State.cycle_cases h with ⟨hg, rfl⟩ | ⟨-, hd, rfl⟩ | ⟨-, i, -, he⟩
  · exact State.failureOk_raise_outOfRange hg
  · exact State.failureOk_raise_unknownOpcode (s := s.advance) hd
  · exact exec_failureOk (s := s.advance) hs he

/-- OUT never gets shorter by an instruction cycle. -/
theorem State.cycle_out_length_le (h : s.cycle = .next t) : s.out.length ≤ t.out.length := by
  rcases State.cycle_out_cases h with ho | ⟨-, -, ho⟩ <;> simp [ho]

/-- With no hold on, the cycle of a running machine keeps the invariant. -/
theorem State.Inv.cycle (hinv : s.Inv) (hs : s.status = .running) (hh : s.hold = false) (h : s.cycle = .next t) : t.Inv := by
  obtain ⟨hwf, hmem, hin, -, -, hsnaps⟩ := hinv
  obtain ⟨hcfg, hm, -, -, -, hsn, hhold⟩ := State.cycle_keeps h
  refine ⟨hcfg ▸ hwf, hm ▸ hmem, by rwa [hm, hcfg], State.cycle_failureOk hs h, fun ht => ?_, fun n hn => ?_⟩
  · simp [hhold, hh] at ht
  · exact (hsnaps n (hsn ▸ hn)).trans (State.cycle_out_length_le h)

/-- Showing the snapshot in a debug run keeps the invariant: the new line stands at the end of OUT. -/
theorem State.Inv.renderSnapshot (hinv : s.Inv) (hs : s.status = .running) (hd : s.debug = true) : s.renderSnapshot.Inv := by
  obtain ⟨hwf, hmem, hin, hf, -, hsnaps⟩ := hinv
  unfold State.renderSnapshot
  split
  · exact ⟨hwf, hmem, hin, hf, fun _ => ⟨hs, hd⟩, hsnaps⟩
  · refine ⟨hwf, hmem, hin, hf, fun _ => ⟨hs, hd⟩, fun n hn => ?_⟩
    rcases List.mem_append.mp hn with hn | hn
    · exact hsnaps n hn
    · rw [List.mem_singleton.mp hn]
      exact Nat.le_refl _

/-- Releasing the hold keeps the invariant. -/
theorem State.Inv.release (hinv : s.Inv) (rest : List Byte) : (s.release rest).Inv := by
  obtain ⟨hwf, hmem, hin, hf, -, hsnaps⟩ := hinv
  exact ⟨hwf, hmem, hin, hf, nofun, hsnaps⟩

/-- Under the invariant no hold is on with Debug false. -/
theorem State.Inv.hold_eq_false (hinv : s.Inv) (hd : s.debug = false) : s.hold = false := by
  obtain ⟨-, -, -, -, hhold, -⟩ := hinv
  refine Bool.eq_false_iff.mpr fun hh => ?_
  obtain ⟨-, hd'⟩ := hhold hh
  cases hd.symm.trans hd'

/-- Settles O3: the gate before the fetch keeps the invariant and lets the cycle start with no hold on (`Inv.renderSnapshot`,
`Inv.release`, `Inv.hold_eq_false`), and the cycle keeps it from there (`Inv.cycle`). -/
theorem stepKeepsInvariant : Obligations.StepKeepsInvariant := by
  unfold Obligations.StepKeepsInvariant
  intro s t hinv h
  rcases step_cases h with ⟨-, rfl⟩ | ⟨hs, hg⟩ | ⟨hs, u, hg, hcyc⟩
  · exact hinv
  all_goals rcases State.debugGate_cases (s := s) with ⟨hd, hg'⟩ | ⟨hd, rest, -, hg'⟩ | ⟨hd, -, -, hg'⟩ | ⟨-, -, -, hg'⟩
  all_goals cases hg.symm.trans hg'
  · exact hinv.renderSnapshot hs hd
  · exact hinv.cycle hs (hinv.hold_eq_false hd) hcyc
  · exact ((hinv.renderSnapshot hs hd).release rest).cycle (by simpa using hs) rfl hcyc

end Sys2Proof.Machine
end

section
/-! PROOFS. The reader of whole instructions is the inverse of the encoder (30_encoding R80 to R83). -/

namespace Sys2Proof

variable {c : Config} {k : Code} {ws rest : List Word}

/-- The opcode word of an instruction of format OPW, and a Word behind it, are read as the instruction with that operand. -/
theorem Config.Wf.decodeCode_opw (h : c.Wf) {i : Instr} (hi : i.takesOperand = true) (w : Word) (rest : List Word) :
    c.decodeCode (c.opval.value i :: w :: rest) = .code ⟨i, some w⟩ rest := by
  simp [Config.decodeCode, h.decode_value i, hi]

/-- The opcode word of an instruction of format OP is read as the instruction alone. -/
theorem Config.Wf.decodeCode_op (h : c.Wf) {i : Instr} (hi : i.takesOperand = false) (rest : List Word) :
    c.decodeCode (c.opval.value i :: rest) = .code ⟨i, none⟩ rest := by
  simp [Config.decodeCode, h.decode_value i, hi]

/-- Everything a successful reading can be: an opcode word of format OPW and its operand word, or one of format OP alone. -/
theorem Config.decodeCode_cases (h : c.decodeCode ws = .code k rest) :
    ∃ w i, c.decode w = some i ∧
      ((i.takesOperand = true ∧ ∃ o, ws = w :: o :: rest ∧ k = ⟨i, some o⟩) ∨
        (i.takesOperand = false ∧ ws = w :: rest ∧ k = ⟨i, none⟩)) := by
  cases ws with
  | nil => cases h
  | cons w ws =>
    rw [Config.decodeCode] at h
    cases hd : c.decode w with
    | none => simp [hd] at h
    | some i =>
      refine ⟨w, i, hd, ?_⟩
      cases hi : i.takesOperand with
      | false =>
        simp only [hd, hi] at h
        cases h
        exact .inr ⟨rfl, rfl, rfl⟩
      | true =>
        cases ws with
        | nil => simp [hd, hi] at h
        | cons o ws =>
          simp only [hd, hi] at h
          cases h
          exact .inl ⟨rfl, o, rfl, rfl⟩

/-- What is encoded is read back, with the Words after it left over. -/
theorem Config.Wf.decodeCode_encode (h : c.Wf) (hk : k.Wf) : c.decodeCode (c.encode k ++ rest) = .code k rest := by
  obtain ⟨i, _ | w⟩ := k
  · exact h.decodeCode_op (Eq.symm hk) rest
  · exact h.decodeCode_opw (Eq.symm hk) w rest

/-- What is read is well formed, and the Words it was read off are its encoding and the rest, whatever OPVAL is. -/
theorem Config.eq_encode_of_decodeCode (h : c.decodeCode ws = .code k rest) : k.Wf ∧ ws = c.encode k ++ rest := by
  obtain ⟨w, i, hd, ⟨hi, o, rfl, rfl⟩ | ⟨hi, rfl, rfl⟩⟩ := Config.decodeCode_cases h
  all_goals
    obtain rfl := Config.value_of_decode hd
    exact ⟨hi.symm, rfl⟩

/-- Settles O39: `decodeCode_encode` one way, `eq_encode_of_decodeCode` the other. -/
theorem decodeAndEncodeAgree : Obligations.DecodeAndEncodeAgree := by
  unfold Obligations.DecodeAndEncodeAgree
  exact fun _ h => ⟨fun _ _ => h.decodeCode_encode, fun _ _ _ => Config.eq_encode_of_decodeCode⟩

/-- Settles O40: the opcode words written out are values of the default OPVAL, read by the two rules of `decodeCode`; 18 is none. -/
theorem defaultWordsDecodeAsWritten : Obligations.DefaultWordsDecodeAsWritten := by
  unfold Obligations.DefaultWordsDecodeAsWritten
  have h := Config.default_wf
  exact ⟨h.decodeCode_op (i := .halt) rfl [], h.decodeCode_opw (i := .seta) rfl 72 [], h.decodeCode_op (i := .adxy) rfl [],
    h.decodeCode_opw (i := .ldai) rfl 11 [], h.decodeCode_opw (i := .jneq) rfl 2 [], rfl⟩

end Sys2Proof
end

section
/-! PROOFS. The default OPVAL is the enumeration's own order (30_encoding R84, decision D1). -/

namespace Sys2Proof

/-- The value of a name under the default OPVAL is its place in the enumeration of 00_scope R2. -/
theorem Instr.all_getElem?_default_value (i : Instr) : Instr.all[(OpVal.default.value i).toNat]? = some i := by
  cases i <;> rfl

/-- No instruction stands at two places of the enumeration. -/
theorem Instr.all_nodup : Instr.all.Nodup := by decide

/-- An instruction stands at the place of its default value and at no other. -/
theorem Instr.all_getElem?_eq_some_iff {i : Instr} {w : Word} : Instr.all[w.toNat]? = some i ↔ w = OpVal.default.value i := by
  constructor
  · intro h
    obtain ⟨hlt, -⟩ := List.getElem?_eq_some_iff.mp h
    exact BitVec.eq_of_toNat_eq ((List.getElem?_inj hlt Instr.all_nodup).mp (h.trans (Instr.all_getElem?_default_value i).symm))
  · rintro rfl
    exact Instr.all_getElem?_default_value i

/-- The default decoder looks the Word up as a place in the enumeration. -/
theorem Config.default_decode (w : Word) : Config.default.decode w = Instr.all[w.toNat]? :=
  Option.ext fun _ => Config.default_wf.decode_eq_some_iff.trans Instr.all_getElem?_eq_some_iff.symm

/-- Settles O38: the decoder is a look-up in the enumeration (`default_decode`), which has 18 places. -/
theorem defaultOpcodesAreBelowEighteen : Obligations.DefaultOpcodesAreBelowEighteen := by
  unfold Obligations.DefaultOpcodesAreBelowEighteen
  intro w
  rw [Config.default_decode]
  exact ⟨rfl, List.getElem?_eq_none_iff⟩

end Sys2Proof
end

section
/-! PROOFS. JINZ and JNEQ (43_control_transfer R161, R165). -/

namespace Sys2Proof.Machine

variable {s : State} {i : Instr} {n : Nat}

/-- The condition on which a conditional jump is taken: I not zero for JINZ, Z false for JNEQ. -/
abbrev State.Taken (s : State) (i : Instr) : Prop := (i = .jinz ∧ s.i ≠ 0) ∨ (i = .jneq ∧ s.z = false)

/-- The condition on which it is not taken. -/
abbrev State.NotTaken (s : State) (i : Instr) : Prop := (i = .jinz ∧ s.i = 0) ∨ (i = .jneq ∧ s.z = true)

/-- Taken, with the operand word inside memory. -/
theorem exec_taken_of_lt (h : s.Taken i) (hl : s.pc.toNat < s.cfg.memSize) :
    exec i s = .next { s with pc := s.mem.read s.pc.toNat } :=
  (exec_of_taken h).trans (State.jumpToOperand_of_lt hl)

/-- Taken, with the operand word outside memory. -/
theorem exec_taken_of_le (h : s.Taken i) (hg : s.cfg.memSize ≤ s.pc.toNat) :
    exec i s = .next { s with status := .failed .outOfRange s.pc } :=
  (exec_of_taken h).trans (State.withOperand_of_le hg)

/-- The step of a conditional jump that is taken, its operand word inside memory. -/
theorem State.NextIs.step_taken_of_lt (h : s.NextIs i n) (hn : OpVal.default.value i = BitVec.ofNat 64 n) (ht : s.Taken i)
    (hl : s.pc.toNat + 1 < s.cfg.memSize) : step s = .next { s with pc := s.mem.read (s.pc.toNat + 1) } := by
  rw [h.step_eq hn, exec_of_taken (s := s.advance) ht]
  exact State.withOperand_advance_of_lt h.cfg_wf hl

/-- The step of a conditional jump that is taken, at the last address. -/
theorem State.NextIs.step_taken_of_eq (h : s.NextIs i n) (hn : OpVal.default.value i = BitVec.ofNat 64 n) (ht : s.Taken i)
    (hl : s.pc.toNat + 1 = s.cfg.memSize) : step s = .next s.operandFetchFailed := by
  rw [h.step_eq hn, exec_of_taken (s := s.advance) ht]
  exact State.withOperand_advance_of_eq h.cfg_wf hl

/-- The step of a conditional jump that is not taken, wherever its operand word would stand (decision D7). -/
theorem State.NextIs.step_notTaken (h : s.NextIs i n) (hn : OpVal.default.value i = BitVec.ofNat 64 n) (ht : s.NotTaken i) :
    step s = .next { s with pc := s.pc + 2 } := by
  rw [h.step_eq hn, exec_of_not_taken (s := s.advance) ht]
  exact congrArg (fun v => Host.Outcome.next (s.setPc v)) (BitVec.add_assoc s.pc 1 1)

/-- Settles O21: the rules of a conditional jump, taken exactly when I is not zero. -/
theorem jinzJumpsWhenIndexNotZero : Obligations.JinzJumpsWhenIndexNotZero := by
  unfold Obligations.JinzJumpsWhenIndexNotZero
  have taken {s : State} (hi : s.i ≠ 0) : s.Taken .jinz := .inl ⟨rfl, hi⟩
  have notTaken {s : State} (hi : s.i = 0) : s.NotTaken .jinz := .inl ⟨rfl, hi⟩
  exact fun s => ⟨fun hi => exec_taken_of_lt (taken hi), fun hi => exec_taken_of_le (taken hi),
    fun hi => exec_of_not_taken (notTaken hi), fun h hi => h.step_taken_of_lt rfl (taken hi),
    fun h hi => h.step_taken_of_eq rfl (taken hi), fun h hi => h.step_notTaken rfl (notTaken hi), s.opcodeFetchRaises⟩

/-- Settles O22: the rules of a conditional jump, taken exactly when Z is false. -/
theorem jneqJumpsWhenZFalse : Obligations.JneqJumpsWhenZFalse := by
  unfold Obligations.JneqJumpsWhenZFalse
  have taken {s : State} (hz : s.z = false) : s.Taken .jneq := .inr ⟨rfl, hz⟩
  have notTaken {s : State} (hz : s.z = true) : s.NotTaken .jneq := .inr ⟨rfl, hz⟩
  exact fun s => ⟨fun hz => exec_taken_of_lt (taken hz), fun hz => exec_taken_of_le (taken hz),
    fun hz => exec_of_not_taken (notTaken hz), fun h hz => h.step_taken_of_lt rfl (taken hz),
    fun h hz => h.step_taken_of_eq rfl (taken hz), fun h hz => h.step_notTaken rfl (notTaken hz), s.opcodeFetchRaises⟩

end Sys2Proof.Machine
end

section
/-! PROOFS. What an instruction reads, said once for every part of the state: its listed registers, Z if it is JNEQ, memory at pc and
behind it (10_state R22 to R25, R36). -/

namespace Sys2Proof.Machine

variable {s t : State} {i : Instr} {α β : Type} {get : State → α} {set : State → State}

/-- What follows a value read from the state does not read the part if the value does not rest on it and the rest does not read it. -/
theorem NotRead.of_arg {g : State → β} {f : β → State → Result} (hg : ∀ s, g (set s) = g s) (hf : ∀ b, NotRead get set (f b)) :
    NotRead get set fun s => f (g s) s := by
  intro s t h
  simp only [hg]
  exact hf _ s t h

/-- A part of the state that none of the updates an instruction makes reads. -/
structure Separate (get : State → α) (set : State → State) : Prop extends Detached get set where
  setReg : ∀ r v, NotRead get set fun s => .next (s.setReg r v)
  setPc : ∀ k, NotRead get set fun s => .next (s.setPc k)
  setZ : ∀ b, NotRead get set fun s => .next (s.setZ b)
  emit : ∀ v, NotRead get set fun s => .next (s.emit v)
  halt : NotRead get set fun s => .next (s.setStatus .halted)

/-- An instruction does not read such a part if its listed registers do not rest on it and, for JNEQ, Z does not. -/
theorem exec_notRead (hd : Separate get set) (hreg : ∀ r, i ∈ r.readers → ∀ s, (set s).reg r = s.reg r)
    (hz : i = .jneq → ∀ s, (set s).z = s.z) : NotRead get set (exec i) := by
  have ofReg (r : Reg) (hr : i ∈ r.readers) {f : Word → State → Result} (hf : ∀ v, NotRead get set (f v)) :
      NotRead get set fun s => f (s.reg r) s := .of_arg (hreg r hr) hf
  cases i with
  | halt => exact hd.halt
  | noop => exact .of_comm (g := id) (fun _ => rfl) fun _ => rfl
  | inca => exact ofReg .A (by decide) fun v => hd.setReg .A (aluInc v)
  | deca => exact ofReg .A (by decide) fun v => hd.setReg .A (aluDec v)
  | deci => exact ofReg .I (by decide) fun v => hd.setReg .I (aluDec v)
  | inci => exact ofReg .I (by decide) fun v => hd.setReg .I (aluInc v)
  | mvay => exact ofReg .A (by decide) (hd.setReg .Y)
  | mvax => exact ofReg .A (by decide) (hd.setReg .X)
  | mvya => exact ofReg .Y (by decide) (hd.setReg .A)
  | outa => exact ofReg .A (by decide) hd.emit
  | adxy =>
    exact ofReg .Y (f := fun y s => .next (s.setReg .Y (aluAdd y (s.reg .X)))) (by decide) fun y =>
      ofReg .X (by decide) fun x => hd.setReg .Y (aluAdd y x)
  | seta => exact .withOperand hd.toDetached (hd.setReg .A)
  | seti => exact .withOperand hd.toDetached (hd.setReg .I)
  | cmpi => exact .withOperand hd.toDetached fun k => ofReg .I (by decide) fun v => hd.setZ (aluEq v k)
  | ldai =>
    exact .withOperand hd.toDetached fun k => ofReg .I (f := fun v s => s.withRead (aluAdd v k) fun w => .next (s.setReg .A w))
      (by decide) fun v => .withRead hd.toDetached (addr := fun _ => aluAdd v k) (fun _ => rfl) (hd.setReg .A)
  | jump => exact .jumpToOperand hd.toDetached hd.setPc
  | jinz => exact .branch hd.toDetached hd.setPc fun s => congrArg (· != 0) (hreg .I (by decide) s)
  | jneq => exact .branch hd.toDetached hd.setPc fun s => congrArg not (hz rfl s)

/-- Two runs answer as `NotRead` says. -/
theorem NotRead.cases {f : State → Result} {u : State} (hf : NotRead get set f) (ht : f s = .next t) (hu : f (set s) = .next u) :
    (get t = get s ∧ u = set t) ∨ u = t := by
  rcases hf s t ht with ⟨hget, hu'⟩ | hu' <;> cases hu.symm.trans hu'
  · exact .inl ⟨hget, rfl⟩
  · exact .inr rfl

end Sys2Proof.Machine
end

section
/-! PROOFS. The readers and writers of the general registers, and the status, which no instruction reads (10_state R22 to R25, R39). -/

namespace Sys2Proof.Machine

variable {s t : State} {i : Instr} {r : Reg}

/-- Setting two different registers commutes. -/
theorem State.setReg_comm {q : Reg} (h : q ≠ r) (v w : Word) : (s.setReg r v).setReg q w = (s.setReg q w).setReg r v := by
  cases q <;> cases r <;> simp at h ⊢

/-- The later of two writes to one register is the one that counts. -/
theorem State.setReg_setReg (v w : Word) : (s.setReg r v).setReg r w = s.setReg r w := by cases r <;> rfl

/-- Writing a register reads none: it overwrites its own and goes past the others. -/
theorem notRead_setReg (v : Word) (q : Reg) (w : Word) :
    NotRead (State.reg · r) (State.setReg · r v) fun s => .next (s.setReg q w) := by
  by_cases hq : q = r
  · subst hq
    exact .of_overwrite fun _ => State.setReg_setReg v w
  · exact .of_comm (fun s => by rw [State.reg_setReg, if_neg (Ne.symm hq)]) fun _ => State.setReg_comm hq v w

/-- A register is read by none of the updates. -/
theorem separate_reg (r : Reg) (v : Word) : Separate (State.reg · r) (State.setReg · r v) where
  cfg s := s.setReg_cfg r v
  mem s := s.setReg_mem r v
  pc s := s.setReg_pc r v
  advance _ := by cases r <;> rfl
  get_advance s := s.reg_advance r
  raise _ _ := .of_comm (fun s => s.reg_raise r _ _) fun _ => by cases r <;> rfl
  setReg := notRead_setReg v
  setPc _ := .of_comm (fun s => s.reg_setPc r _) fun _ => by cases r <;> rfl
  setZ _ := .of_comm (fun s => s.reg_setZ r _) fun _ => by cases r <;> rfl
  emit _ := .of_comm (fun s => s.reg_emit r _) fun _ => by cases r <;> rfl
  halt := .of_comm (fun s => s.reg_setStatus r _) fun _ => by cases r <;> rfl

/-- No instruction but the listed readers of a register reads it. -/
theorem exec_notRead_reg (hi : i ∉ r.readers) (v : Word) : NotRead (State.reg · r) (State.setReg · r v) (exec i) := by
  refine exec_notRead (separate_reg r v) (fun q hq s => ?_) fun _ s => s.setReg_z r v
  rw [State.reg_setReg, if_neg]
  rintro rfl
  exact hi hq

/-- The status is read by none of the updates; raising and HALT overwrite it. -/
theorem separate_status (q : Status) : Separate State.status (State.setStatus · q) where
  cfg _ := rfl
  mem _ := rfl
  pc _ := rfl
  advance _ := rfl
  get_advance _ := rfl
  raise _ _ := .of_overwrite fun _ => rfl
  setReg r v := .of_comm (fun s => s.setReg_status r v) fun _ => by cases r <;> rfl
  setPc _ := .of_comm (fun _ => rfl) fun _ => rfl
  setZ _ := .of_comm (fun _ => rfl) fun _ => rfl
  emit _ := .of_comm (fun _ => rfl) fun _ => rfl
  halt := .of_overwrite fun _ => rfl

/-- Settles O24: an instruction that is no writer of the register leaves it (`exec_keeps_reg`). -/
theorem registersWrittenOnlyByTheirWriters : Obligations.RegistersWrittenOnlyByTheirWriters := by
  unfold Obligations.RegistersWrittenOnlyByTheirWriters
  intro i r s t h hne
  by_contra hi
  exact hne (exec_keeps_reg h hi)

/-- Settles O25 by `exec_notRead_reg`. -/
theorem registersReadOnlyByTheirReaders : Obligations.RegistersReadOnlyByTheirReaders := by
  unfold Obligations.RegistersReadOnlyByTheirReaders
  exact fun _ _ _ _ _ v hi ht hu => (exec_notRead_reg hi v).cases ht hu

/-- Settles O31: the status is none of the registers an instruction reads, nor Z. -/
theorem noInstructionReadsStatus : Obligations.NoInstructionReadsStatus := by
  unfold Obligations.NoInstructionReadsStatus
  exact fun _ _ _ _ q ht hu => (exec_notRead (separate_status q) (fun r _ s => s.reg_setStatus r q) fun _ _ => rfl).cases ht hu

end Sys2Proof.Machine
end

section
/-! PROOFS. Where an execution fails and where a step ends the run (60_exceptions R184, R187; 43_control_transfer R167). -/

namespace Sys2Proof.Machine

variable {s t : State} {i : Instr}

/-- `i`, executed in `s`, fetches its operand word: every instruction of format OPW but a conditional jump that is not taken. -/
abbrev State.FetchesOperand (s : State) (i : Instr) : Prop :=
  i ∈ [.seta, .seti, .jump, .ldai, .cmpi] ∨ s.Taken i

/-- The table of 60_exceptions R184 in two lines: an operand fetched outside memory, or LDAI's indexed address outside it. -/
theorem State.raisesOutOfRange_iff :
    s.RaisesOutOfRange i ↔ (s.FetchesOperand i ∧ s.cfg.memSize ≤ s.pc.toNat) ∨
      (i = .ldai ∧ s.cfg.memSize ≤ (s.i + s.mem.read s.pc.toNat).toNat) := by
  cases i <;> simp [State.RaisesOutOfRange, State.FetchesOperand, State.Taken]

/-- Such an execution begins with the operand fetch. -/
theorem State.FetchesOperand.exists_withOperand (hf : s.FetchesOperand i) : ∃ f, exec i s = s.withOperand f := by
  rcases hf with hi | ht
  · simp only [List.mem_cons, List.not_mem_nil, or_false] at hi
    rcases hi with rfl | rfl | rfl | rfl | rfl
    · exact ⟨_, exec_seta s⟩
    · exact ⟨_, exec_seti s⟩
    · exact ⟨_, exec_jump s⟩
    · exact ⟨_, exec_ldai s⟩
    · exact ⟨_, exec_cmpi s⟩
  · exact ⟨_, exec_of_taken ht⟩

/-- An operand fetched outside memory fails the instruction, whatever the rest of it is. -/
theorem exec_of_operand_outside (hf : s.FetchesOperand i) (hg : s.cfg.memSize ≤ s.pc.toNat) :
    exec i s = .next (s.raise .outOfRange s.pc) := by
  obtain ⟨f, hf⟩ := hf.exists_withOperand
  exact hf.trans (State.withOperand_of_le hg)

/-- LDAI fails at an indexed address outside memory, pc past its operand (44_load R171). -/
theorem exec_ldai_of_data_outside (hl : s.pc.toNat < s.cfg.memSize)
    (hg : s.cfg.memSize ≤ (s.i + s.mem.read s.pc.toNat).toNat) :
    exec .ldai s = .next (s.advance.raise .outOfRange (s.i + s.mem.read s.pc.toNat)) := by
  rw [exec_ldai, State.withOperand_of_lt hl]
  exact State.withRead_of_le (s := s.advance) hg

/-- Where the table says that an instruction raises, it fails with cause OutOfRange. -/
theorem exec_of_raises (h : s.RaisesOutOfRange i) : ∃ (u : State) (a : Word), exec i s = .next (u.raise .outOfRange a) := by
  rcases State.raisesOutOfRange_iff.mp h with ⟨hf, hg⟩ | ⟨rfl, hea⟩
  · exact ⟨_, _, exec_of_operand_outside hf hg⟩
  · rcases Nat.lt_or_ge s.pc.toNat s.cfg.memSize with hl | hg
    · exact ⟨_, _, exec_ldai_of_data_outside hl hea⟩
    · exact ⟨_, _, exec_of_operand_outside (.inl (by decide)) hg⟩

/-- An instruction that fetches no operand word has its effect. -/
theorem effect_of_no_operand (hf : ¬ s.FetchesOperand i) (h : exec i s = .next t) : Effect s t i := by
  cases i with
  | seta | seti | jump | ldai | cmpi => simp [State.FetchesOperand] at hf
  | jinz =>
    have hi : s.i = 0 := by simpa [State.FetchesOperand, State.Taken] using hf
    cases (exec_of_not_taken (.inl ⟨rfl, hi⟩)).symm.trans h
    exact .inr ⟨hi, rfl⟩
  | jneq =>
    have hz : s.z = true := by simpa [State.FetchesOperand, State.Taken] using hf
    cases (exec_of_not_taken (.inr ⟨rfl, hz⟩)).symm.trans h
    exact .inr ⟨hz, rfl⟩
  | _ =>
    cases h
    rfl

/-- Where the table says that an instruction does not raise, it has its effect. -/
theorem effect_of_not_raises (hx : ¬ s.RaisesOutOfRange i) (h : exec i s = .next t) : Effect s t i := by
  by_cases hf : s.FetchesOperand i
  · rcases exec_cases h with he | ⟨hg, -⟩ | ⟨hi, -, hea, -⟩
    · exact he
    · exact absurd (State.raisesOutOfRange_iff.mpr (.inl ⟨hf, hg⟩)) hx
    · exact absurd (State.raisesOutOfRange_iff.mpr (.inr ⟨hi, hea⟩)) hx
  · exact effect_of_no_operand hf h

/-- In a running machine, an instruction that does not raise leaves the run going unless it is HALT. -/
theorem exec_status_of_not_raises (hs : s.status = .running) (hx : ¬ s.RaisesOutOfRange i) (h : exec i s = .next t) :
    t.status = .running ∨ (i = .halt ∧ t.status = .halted) := by
  have he := effect_of_not_raises hx h
  by_cases hi : i = .halt
  · subst hi
    cases he
    exact .inr ⟨rfl, rfl⟩
  · exact .inl ((he.status_eq hi).trans hs)

/-- An execution in a running machine ends the run exactly if it is HALT or raises by the table. -/
theorem exec_ended_iff (hs : s.status = .running) (h : exec i s = .next t) : t.Ended ↔ i = .halt ∨ s.RaisesOutOfRange i := by
  by_cases hx : s.RaisesOutOfRange i
  · obtain ⟨u, a, hu⟩ := exec_of_raises hx
    cases hu.symm.trans h
    simp [hx]
  · rcases exec_status_of_not_raises hs hx h with hr | ⟨rfl, hh⟩
    · have hi : i ≠ .halt := by
        rintro rfl
        cases h
        simp at hr
      simp [hr, hi, hx]
    · simp [hh]

/-- Settles O32: `exec_answers`, then `exec_of_raises` one way and `exec_status_of_not_raises` the other. -/
theorem execFailsExactlyByTable : Obligations.ExecFailsExactlyByTable := by
  unfold Obligations.ExecFailsExactlyByTable
  intro i s
  obtain ⟨t, ht⟩ := exec_answers i s
  refine ⟨t, ht, fun hs => ⟨fun hx => ?_, fun hx => exec_status_of_not_raises hs hx ht⟩⟩
  obtain ⟨u, a, hu⟩ := exec_of_raises hx
  cases hu.symm.trans ht
  exact ⟨a, rfl⟩

/-- Settles O33, by the cases of the cycle: both failures of the opcode fetch end the run, an execution as `exec_ended_iff` says. -/
theorem stepEndsRunExactlyAtStop : Obligations.StepEndsRunExactlyAtStop := by
  unfold Obligations.StepEndsRunExactlyAtStop
  intro s hr
  rcases Nat.lt_or_ge s.pc.toNat s.cfg.memSize with hl | hg
  · cases hd : s.cfg.decode (s.mem.read s.pc.toNat) with
    | none => exact ⟨_, step_of_unknownOpcode hr hl hd, by simp⟩
    | some i =>
      obtain ⟨t, ht⟩ := exec_answers i s.advance
      refine ⟨t, (step_of_decode hr hl hd).trans ht, (exec_ended_iff (s := s.advance) hr.1 ht).trans ⟨fun h => ?_, ?_⟩⟩
      · exact .inr (.inr ⟨i, rfl, h⟩)
      · rintro (hg | hn | ⟨j, hj, h⟩)
        · exact absurd hg (Nat.not_le.mpr hl)
        · cases hn
        · cases hj
          exact h
  · exact ⟨_, s.opcodeFetchRaises hr hg, by simp [State.opcodeFetchFailed, hg]⟩

/-- Settles O35: the failing access by `step_failed_cases`; below 2^64 - 1 the Word behind pc is outside memory only at the last
address. -/
theorem failureLeavesTableState : Obligations.FailureLeavesTableState := by
  unfold Obligations.FailureLeavesTableState
  intro s t c w hr hwf h ht
  rcases step_failed_cases hr h ht with ⟨hg, hc, hw, rfl⟩ | ⟨hl, hd, hc, hw, rfl⟩ | ⟨hl, hd, hg, hc, hw, rfl⟩ |
    ⟨hl, hd, hlo, hg, hc, hw, rfl⟩
  · simp [hg, hc, hw]
  · simp [Nat.not_le.mpr hl, hd, hc, hw]
  all_goals have hpc : (s.pc + 1).toNat = s.pc.toNat + 1 := State.toNat_advance_pc hwf hl
  · have hlast : s.pc.toNat + 1 = s.cfg.memSize := by omega
    rw [if_neg (Nat.not_le.mpr hl), if_neg hd, if_pos hlast, hw]
    exact ⟨hc, hpc.trans hlast, hpc.trans hlast⟩
  · rw [if_neg (Nat.not_le.mpr hl), if_neg (by simp [hd]), if_neg (by omega), ← hpc]
    exact ⟨hd, hc, hw ▸ toNat_aluAdd _ _, hg, rfl⟩

end Sys2Proof.Machine
end

section
/-! PROOFS. What a step does to memory, the parameters and OUT, debug mode included (20_memory R57, 10_state R40, R47). -/

namespace Sys2Proof.Machine

variable {s t : State}

/-- No step changes memory or the parameters. -/
theorem step_keeps_mem_cfg (h : step s = .next t) : t.mem = s.mem ∧ t.cfg = s.cfg := by
  rcases step_cases h with ⟨-, rfl⟩ | ⟨-, hg⟩ | ⟨-, u, hg, hcyc⟩
  · exact ⟨rfl, rfl⟩
  · obtain ⟨_, _, _, rfl⟩ := State.debugGate_frame (.inr hg)
    exact ⟨rfl, rfl⟩
  · obtain ⟨_, _, _, rfl⟩ := State.debugGate_frame (.inl hg)
    obtain ⟨hcfg, hmem, -⟩ := State.cycle_keeps hcyc
    exact ⟨hmem, hcfg⟩

/-- Settles O28: a run keeps what each of its steps keeps (`run_keeps`). -/
theorem memoryConstantDuringRun : Obligations.MemoryConstantDuringRun := by
  unfold Obligations.MemoryConstantDuringRun
  intro n s t h
  have hboth := run_keeps (M := Sys2Proof.core) (get := fun s : State => (s.mem, s.cfg)) (Q := fun _ => True)
    (fun _ _ _ h => Prod.ext_iff.mpr (step_keeps_mem_cfg h)) h fun _ _ _ _ => trivial
  exact Prod.ext_iff.mp hboth

/-- Settles O29: the gate before the fetch leaves OUT, the cycle adds to it as `cycle_out_cases` says. -/
theorem outGrowsOnlyByOuta : Obligations.OutGrowsOnlyByOuta := by
  unfold Obligations.OutGrowsOnlyByOuta
  intro s t h
  rcases step_cases h with ⟨-, rfl⟩ | ⟨-, hg⟩ | ⟨hs, u, hg, hcyc⟩
  · exact .inl rfl
  · obtain ⟨_, _, _, rfl⟩ := State.debugGate_frame (.inr hg)
    exact .inl rfl
  · obtain ⟨_, _, _, rfl⟩ := State.debugGate_frame (.inl hg)
    rcases State.cycle_out_cases hcyc with ho | ⟨hl, hd, ho⟩
    · exact .inl ho
    · exact .inr ⟨hs, hl, hd, ho⟩

/-- Settles O5: the model's choice of log entry 6, which `step_of_ended` says. -/
theorem endedMachineStays : Obligations.EndedMachineStays := by
  unfold Obligations.EndedMachineStays
  exact fun _ => step_of_ended

end Sys2Proof.Machine
end

section
/-! PROOFS. The instruction cycle beside the host's side of the state: IN, its end, Debug, the snapshots and the hold (10_state R41, R42;
60_exceptions R190, R200). -/

namespace Sys2Proof.Machine

variable {s t u : State}

/-- The host's side of `u` (IN, its end, the Debug switch, the snapshots and the hold) put into `s` in place of its own. -/
def State.giveHostSide (u s : State) : State :=
  { s with inp := u.inp, inpClosed := u.inpClosed, debug := u.debug, snaps := u.snaps, hold := u.hold }

/-- The host's side is read by none of the updates, and none changes it. -/
theorem separate_hostSide (u : State) : Separate (fun _ => ()) u.giveHostSide where
  cfg _ := rfl
  mem _ := rfl
  pc _ := rfl
  advance _ := rfl
  get_advance _ := rfl
  raise _ _ := .of_comm (fun _ => rfl) fun _ => rfl
  setReg r v := .of_comm (fun _ => rfl) fun _ => by cases r <;> rfl
  setPc _ := .of_comm (fun _ => rfl) fun _ => rfl
  setZ _ := .of_comm (fun _ => rfl) fun _ => rfl
  emit _ := .of_comm (fun _ => rfl) fun _ => rfl
  halt := .of_comm (fun _ => rfl) fun _ => rfl

/-- A host's side that is there already. -/
theorem State.giveHostSide_eq_self (hinp : t.inp = u.inp) (hclosed : t.inpClosed = u.inpClosed) (hdebug : t.debug = u.debug)
    (hsnaps : t.snaps = u.snaps) (hhold : t.hold = u.hold) : u.giveHostSide t = t := by
  rw [State.giveHostSide, ← hinp, ← hclosed, ← hdebug, ← hsnaps, ← hhold]

/-- The instruction cycle does not read the host's side. -/
theorem State.cycle_notRead_hostSide (u : State) : NotRead (fun _ => ()) u.giveHostSide State.cycle := by
  have hd := separate_hostSide u
  refine .withOperand hd.toDetached fun w s t h => ?_
  cases hdec : s.cfg.decode w with
  | none =>
    simp only [hdec, hd.cfg] at h ⊢
    simpa using hd.raise .unknownOpcode w s t h
  | some i =>
    simp only [hdec, hd.cfg] at h ⊢
    simpa using exec_notRead hd (fun r _ s => by cases r <;> rfl) (fun _ _ => rfl) s t h

/-- The instruction cycle commutes with putting in another host's side: it neither reads it (`cycle_notRead_hostSide`) nor changes it
(`cycle_keeps`). -/
theorem State.cycle_giveHostSide (h : s.cycle = .next t) (u : State) : (u.giveHostSide s).cycle = .next (u.giveHostSide t) := by
  rcases State.cycle_notRead_hostSide u s t h with ⟨-, hu⟩ | hu
  · exact hu
  · obtain ⟨-, -, hinp, hclosed, hdebug, hsnaps, hhold⟩ := State.cycle_keeps hu
    rwa [State.giveHostSide_eq_self (u := u) hinp hclosed hdebug hsnaps hhold]

/-- With Debug false a step changes nothing of the host's side. -/
theorem step_keeps_hostSide (hd : s.debug = false) (h : step s = .next t) :
    t.inp = s.inp ∧ t.inpClosed = s.inpClosed ∧ t.debug = s.debug ∧ t.snaps = s.snaps ∧ t.hold = s.hold := by
  by_cases hs : s.status = .running
  · obtain ⟨-, -, hkeeps⟩ := State.cycle_keeps ((step_of_running ⟨hs, hd⟩).symm.trans h)
    exact hkeeps
  · cases (step_of_ended hs).symm.trans h
    exact ⟨rfl, rfl, rfl, rfl, rfl⟩

/-- With Debug false, before and after, a step commutes with putting in another host's side. -/
theorem step_giveHostSide (hd : s.debug = false) (hu : u.debug = false) (h : step s = .next t) :
    step (u.giveHostSide s) = .next (u.giveHostSide t) := by
  by_cases hs : s.status = .running
  · have hcyc := (step_of_running ⟨hs, hd⟩).symm.trans h
    exact (step_of_running (s := u.giveHostSide s) ⟨hs, hu⟩).trans (State.cycle_giveHostSide hcyc u)
  · cases (step_of_ended hs).symm.trans h
    exact step_of_ended hs

/-- Settles O30: the host's side is kept (`step_keeps_hostSide`), and another IN is another host's side (`step_giveHostSide`). -/
theorem inputUntouchedWithoutDebug : Obligations.InputUntouchedWithoutDebug := by
  unfold Obligations.InputUntouchedWithoutDebug
  intro s t bytes closed hd h
  obtain ⟨hinp, hclosed, hdebug, hsnaps, hhold⟩ := step_keeps_hostSide hd h
  have hother := step_giveHostSide (u := { s with inp := bytes, inpClosed := closed }) hd hd h
  exact ⟨hinp, hclosed, hdebug, hsnaps, hhold, by simpa [State.giveHostSide, hdebug, hsnaps, hhold] using hother⟩

end Sys2Proof.Machine
end

section
/-! PROOFS. The debug mode: the held step, by a line of IN or by the strobe, and the wait (60_exceptions R200 to R202). -/

namespace Sys2Proof.Machine

variable {s t : State}

/-- With a line at hand, a debug step is the cycle, the snapshot shown and the line read. -/
theorem step_of_line {rest : List Byte} (hs : s.status = .running) (hd : s.debug = true) (hline : takeLine s.inp = some rest) :
    step s = (s.renderSnapshot.release rest).cycle := by
  simp [step, State.iterate, State.debugGate, hs, hd, hline]

/-- Without a whole line in an open IN, a debug step shows the snapshot and waits. -/
theorem step_of_no_line (hs : s.status = .running) (hd : s.debug = true) (hline : takeLine s.inp = none)
    (hopen : s.inpClosed = false) : step s = .next s.renderSnapshot := by
  simp [step, State.iterate, State.debugGate, hs, hd, hline, hopen]

/-- Where IN has ended before a whole line, a debug step is refused. -/
theorem step_of_input_ended (hs : s.status = .running) (hd : s.debug = true) (hline : takeLine s.inp = none)
    (hclosed : s.inpClosed = true) : step s = .refused .debugInputEnded := by
  simp [step, State.iterate, State.debugGate, hs, hd, hline, hclosed]

/-- The snapshot of a fetch is shown once. -/
theorem State.renderSnapshot_of_hold (hh : s.hold = true) : s.renderSnapshot = s := if_pos hh

/-- The cycle of a state that differs from a running `s` in the host's side only is the step of `s` with Debug false, with that host's
side put in. -/
theorem State.cycle_of_step_without_debug {u : State} (hs : s.status = .running) (hu : u.giveHostSide s = u)
    (h : step { s with debug := false } = .next t) : u.cycle = .next (u.giveHostSide t) := by
  have hcyc := State.cycle_giveHostSide ((step_of_running (s := { s with debug := false }) ⟨hs, rfl⟩).symm.trans h) u
  rwa [show u.giveHostSide { s with debug := false } = u from hu] at hcyc

/-- Settles O48: the step is the cycle of `step_of_line`, whose start differs from `s` in the host's side only. -/
theorem debugChangesOnlyTheStreams : Obligations.DebugChangesOnlyTheStreams := by
  unfold Obligations.DebugChangesOnlyTheStreams
  intro s t rest hs hd hline h
  have hu : (s.renderSnapshot.release rest).giveHostSide s = s.renderSnapshot.release rest := by
    unfold State.renderSnapshot
    split <;> rfl
  obtain ⟨-, hclosed, -⟩ := step_keeps_hostSide (s := { s with debug := false }) rfl h
  rw [step_of_line hs hd hline, State.cycle_of_step_without_debug hs hu h]
  simp [State.giveHostSide, hd, hclosed]

/-- Settles O49, by induction on the number of waiting steps: each after the first finds the hold on and shows nothing more. -/
theorem debugHoldsUntilALineArrives : Obligations.DebugHoldsUntilALineArrives := by
  unfold Obligations.DebugHoldsUntilALineArrives
  refine fun s k hs hd hline => ⟨fun hopen => ?_, step_of_input_ended hs hd hline⟩
  have hwait := step_of_no_line hs hd hline hopen
  induction k generalizing s with
  | zero => exact run_succ_of_step (M := Sys2Proof.core) hwait 0
  | succ k ih =>
    have hs' : s.renderSnapshot.status = .running := by simpa using hs
    have hd' : s.renderSnapshot.debug = true := by simpa using hd
    have hline' : takeLine s.renderSnapshot.inp = none := by simpa using hline
    have hopen' : s.renderSnapshot.inpClosed = false := by simpa using hopen
    have hrest := ih s.renderSnapshot hs' hd' hline' hopen' (step_of_no_line hs' hd' hline' hopen')
    rw [State.renderSnapshot_of_hold s.renderSnapshot_hold] at hrest
    exact (run_succ_of_step (M := Sys2Proof.core) hwait (k + 1)).trans hrest

/-- The strobe to a held machine is the cycle, the hold off. -/
theorem State.dbgStepPort_of_held (hs : s.status = .running) (hd : s.debug = true) (hh : s.hold = true) :
    s.dbgStepPort = (s.release s.inp).cycle := if_pos (State.held_iff.mpr ⟨hs, hd, hh⟩)

/-- The strobe to a machine that is not held does nothing (log entry 30). -/
theorem State.dbgStepPort_of_not_held (h : ¬ s.held = true) : s.dbgStepPort = .next s := if_neg h

/-- Settles O57: the held step is the cycle with the hold off, whose start differs from `s` in the host's side only. -/
theorem stepStrobeReleasesHold : Obligations.StepStrobeReleasesHold := by
  unfold Obligations.StepStrobeReleasesHold
  refine ⟨fun s t hs hd hh h => ?_, fun s hn => ?_, fun s level => ⟨fun he => if_neg he, fun hs => if_pos hs⟩⟩
  · obtain ⟨-, hclosed, -⟩ := step_keeps_hostSide (s := { s with debug := false }) rfl h
    rw [State.dbgStepPort_of_held hs hd hh, State.cycle_of_step_without_debug hs (u := s.release s.inp) rfl h]
    simp [State.giveHostSide, hd, hclosed]
  · refine State.dbgStepPort_of_not_held fun hheld => ?_
    obtain ⟨hs, hd, hh⟩ := State.held_iff.mp hheld
    simp [hs, hd, hh] at hn

end Sys2Proof.Machine
end

section
/-! PROOFS. What the host puts into memory: Load and the invariant, the beats of the load port, an instruction placed at pc (70_reset R212,
R218, R230). -/

namespace Sys2Proof.Machine

variable {s t : State} {p : Program} {ws : List Word}

/-- Load keeps the invariant: the Words are written inside memory, and a machine not in a run has no hold on. -/
theorem State.Inv.load (hinv : s.Inv) (h : s.load p = .loaded t) : t.Inv := by
  obtain ⟨hwf, hmem, hin, -, hhold, hsnaps⟩ := hinv
  obtain ⟨hs, -, rfl⟩ := State.load_cases h
  refine ⟨hwf, State.writeWords_wf p s 0 hmem, State.writeWords_inside p s 0 hin, rfl, fun hh => ?_, hsnaps⟩
  obtain ⟨hr, -⟩ := hhold hh
  exact absurd hr hs

/-- Settles O44 by `Inv.load`. -/
theorem loadKeepsInvariant : Obligations.LoadKeepsInvariant := by
  unfold Obligations.LoadKeepsInvariant
  exact fun _ _ _ => State.Inv.load

/-- A MemWrite leaves the status. -/
theorem State.memWrite_status (s : State) (a : Nat) (v : Word) : (s.memWrite a v).status = s.status := by
  unfold State.memWrite
  split <;> rfl

/-- A beat of the load port, outside a run, is a MemWrite at its address. -/
theorem State.loadBeat_of_ended (hs : s.Ended) (addr data : Word) : s.loadBeat addr data = s.memWrite addr.toNat data := if_neg hs

/-- Outside a run the beats of a program write its Words one after the other, as long as its addresses are Words. -/
theorem State.loadBeats_eq_writeWords (p : Program) {s : State} {k : Nat} (hs : s.Ended) (hk : k + p.length ≤ 2 ^ 64) :
    s.loadBeats k p = s.writeWords k p := by
  induction p generalizing s k with
  | nil => rfl
  | cons w ws ih =>
    rw [List.length_cons] at hk
    have haddr : (BitVec.ofNat 64 k).toNat = k := (BitVec.toNat_ofNat k 64).trans (Nat.mod_eq_of_lt (by omega))
    have hs' : (s.memWrite k w).Ended := by rwa [State.Ended, s.memWrite_status]
    rw [State.loadBeats, State.loadBeat_of_ended hs, haddr, ih hs' (by omega), State.writeWords]

/-- Settles O45: the beats write what Load writes (`loadBeats_eq_writeWords`, MEMSIZE being below 2^64), and `ld_done` does the rest. -/
theorem portBeatsMakeALoad : Obligations.PortBeatsMakeALoad := by
  unfold Obligations.PortBeatsMakeALoad
  intro s p hs hwf hp
  obtain ⟨-, hmax, -⟩ := hwf
  rw [State.loadBeats_eq_writeWords p hs (by omega), State.writeWords_eq, State.load_of_fits hs hp]
  exact congrArg LoadResult.loaded (if_neg hs).symm

/-- Placing Words at pc changes memory, the status, Debug and the hold, and nothing else (log entry 7). -/
theorem State.placeAtPc_eq (s : State) (ws : List Word) :
    s.placeAtPc ws =
      { s with mem := (s.writeWords s.pc.toNat ws).mem, status := .running, debug := false, hold := false } := by
  rw [State.placeAtPc, State.writeWords_eq]

/-- Words placed at pc, inside memory, stand there. -/
theorem State.placeAtPc_read (hwf : s.mem.wf) (hfit : s.pc.toNat + ws.length ≤ s.cfg.memSize) {k : Nat} (hk : k < ws.length) :
    Memory.read (s.placeAtPc ws).mem (s.pc.toNat + k) = ws[k] := by
  simp [State.placeAtPc_eq, State.writeWords_read (s.pc.toNat + k) ws s s.pc.toNat hwf hfit, hk]

/-- A table word is read as an instruction only if its first Word decodes to it. -/
theorem decode_of_decodeTableWord {nbits w : Nat} {i : Instr} (h : decodeTableWord nbits w = some i) :
    Config.default.decode (BitVec.ofNat 64 (w % 2 ^ nbits)) = some i := by
  rw [decodeTableWord] at h
  cases hcode : Config.default.decodeCode (tableWords nbits w) with
  | rejected why => simp [hcode] at h
  | code k rest =>
    obtain rfl : k.op = i := by simpa [hcode] using h
    obtain ⟨w', i', hdec, ⟨-, o, hw, rfl⟩ | ⟨-, hw, rfl⟩⟩ := Config.decodeCode_cases hcode
    all_goals
      cases hw
      exact hdec

/-- Settles O41: the two Words stand at pc and behind it (`placeAtPc_read`), so the first is fetched and decodes to the instruction. -/
theorem placedWordRunsNext : Obligations.PlacedWordRunsNext := by
  unfold Obligations.PlacedWordRunsNext
  intro s nbits w i hcfg hwf hroom h
  have hfit : s.pc.toNat + (tableWords nbits w).length ≤ s.cfg.memSize := hroom
  have hfirst : Memory.read (s.withFetchWord nbits w).mem s.pc.toNat = BitVec.ofNat 64 (w % 2 ^ nbits) :=
    State.placeAtPc_read hwf hfit (k := 0) Nat.two_pos
  have hsecond := State.placeAtPc_read hwf hfit (k := 1) Nat.one_lt_two
  have hpc : (s.withFetchWord nbits w).pc = s.pc := by rw [State.withFetchWord, State.placeAtPc_eq]
  have hcfg' : (s.withFetchWord nbits w).cfg = s.cfg := by rw [State.withFetchWord, State.placeAtPc_eq]
  refine ⟨step_of_decode ⟨rfl, rfl⟩ (by rw [hpc, hcfg']; omega) ?_, hsecond⟩
  rw [hpc, hcfg', hcfg, hfirst]
  exact decode_of_decodeTableWord h

end Sys2Proof.Machine
end

section
/-! PROOFS. Create and reset, the snapshot, the start of a run, the status ports (70_reset R210, R215, R230; 60_exceptions R200, R201). -/

namespace Sys2Proof.Machine

/-- Settles O1: every field as Create's definition gives it, and a memory without entries. -/
theorem createMakesFreshMachine : Obligations.CreateMakesFreshMachine := by
  unfold Obligations.CreateMakesFreshMachine
  exact ⟨fun _ _ => ⟨rfl, rfl, rfl, rfl, rfl, rfl, rfl, rfl, rfl, rfl, rfl, rfl, rfl, rfl, fun _ => rfl⟩, rfl, rfl⟩

/-- Settles O2: the default parameters by `Config.default_wf`; memory and the snapshots are empty, nothing has failed, no hold is on. -/
theorem resetMeetsInvariant : Obligations.ResetMeetsInvariant := by
  unfold Obligations.ResetMeetsInvariant
  exact ⟨Config.default_wf, State.reset_mem_wf, List.forall_mem_nil _, rfl, nofun, List.forall_mem_nil _⟩

/-- NEEDS_ARG as a list (30_encoding R85). -/
theorem needsArg_iff (i : Instr) : i.needsArg = true ↔ i ∈ [.seta, .seti, .jump, .jneq] := by cases i <;> decide

/-- What the snapshot names as next is what the Word at pc decodes to. -/
theorem State.peekNext_of_decode {s : State} {i : Instr} (hl : s.pc.toNat < s.cfg.memSize)
    (hd : s.cfg.decode (s.mem.read s.pc.toNat) = some i) : s.peekNext = some i := by
  rw [State.peekNext, State.memRead_of_lt hl]
  exact hd

/-- Settles O50: the fields by definition, the mnemonic by `peekNext_of_decode`, the operand by NEEDS_ARG. -/
theorem snapshotPeeksByNeedsArg : Obligations.SnapshotPeeksByNeedsArg := by
  unfold Obligations.SnapshotPeeksByNeedsArg
  intro s i hl hd
  have hnext := State.peekNext_of_decode hl hd
  refine ⟨rfl, rfl, rfl, rfl, rfl, rfl, hnext, fun hl' => ?_⟩
  simp only [← needsArg_iff, ← State.memRead_of_lt hl']
  simp only [State.snapshot, State.peekOperand, hnext]

/-- Settles O51: the start of a run sets the status, and the port is that start outside a run. -/
theorem runStartsAtCurrentPc : Obligations.RunStartsAtCurrentPc := by
  unfold Obligations.RunStartsAtCurrentPc
  exact fun _ => ⟨rfl, fun he => if_neg he, fun hs => if_pos hs⟩

/-- Settles O52, by the cases of the status. -/
theorem portsShowStatus : Obligations.PortsShowStatus := by
  unfold Obligations.PortsShowStatus
  intro s
  unfold State.haltedPort State.failedPort State.causePort State.infoPort
  cases s.status with
  | failed c w => cases c <;> simp [Cause.code]
  | idle | running | halted => simp

end Sys2Proof.Machine
end

section
/-! PROOFS. The host's byte stream (40_system R125, 60_exceptions R200; log entries 13, 20). -/

namespace Sys2Proof.Machine

variable {s : State}

/-- Without snapshot lines the stream is OUT through OUT_ENCODE. -/
theorem State.streamBytes_of_no_snaps (h : s.snaps = []) :
    s.streamBytes = s.out.zipIdx.flatMap fun p => outEncode p.2 p.1 := by
  simp [State.streamBytes, h, snapshotBytes]

/-- A Word up to 127 is one byte, equal to it, at every position (decision D10). -/
theorem outEncode_of_le {pos : Nat} {w : Word} (h : w.toNat ≤ 127) : outEncode pos w = [BitVec.ofNat 8 w.toNat] := if_pos h

/-- Settles O47: each Word of OUT is one byte by `outEncode_of_le`, whatever its position. -/
theorem asciiOutputIsByteForByte : Obligations.AsciiOutputIsByteForByte := by
  unfold Obligations.AsciiOutputIsByteForByte
  intro s hsnaps hascii
  have hword : ∀ p ∈ s.out.zipIdx, outEncode p.2 p.1 = [BitVec.ofNat 8 p.1.toNat] := fun p hp =>
    outEncode_of_le (hascii p.1 (List.fst_mem_of_mem_zipIdx hp))
  calc s.streamBytes = s.out.zipIdx.flatMap fun p => outEncode p.2 p.1 := State.streamBytes_of_no_snaps hsnaps
    _ = s.out.zipIdx.flatMap fun p => [BitVec.ofNat 8 p.1.toNat] := List.flatMap_congr hword
    _ = s.out.zipIdx.map fun p => BitVec.ofNat 8 p.1.toNat := List.map_eq_flatMap.symm
    _ = (s.out.zipIdx.map Prod.fst).map fun w => BitVec.ofNat 8 w.toNat := by
      simp only [List.map_map, Function.comp_def]
    _ = s.out.map fun w => BitVec.ofNat 8 w.toNat := by rw [List.zipIdx_map_fst]

/-- A snapshot line shown adds its text at the end of the stream: it stands behind every Word of OUT. -/
theorem State.streamBytes_renderSnapshot (hh : s.hold = false) :
    s.renderSnapshot.streamBytes = s.streamBytes ++ Config.snapshotText s.snaps.length s.snapshot.toSnapshotLine := by
  have hwords : ∀ p ∈ s.out.zipIdx, snapshotBytes (s.snaps ++ [s.snapshot]) p.2 ++ outEncode p.2 p.1 =
      snapshotBytes s.snaps p.2 ++ outEncode p.2 p.1 := fun p hp => by
    have hne : s.snapshot.outPos ≠ p.2 := Nat.ne_of_gt (List.snd_lt_of_mem_zipIdx hp)
    rw [snapshotBytes_append, if_neg hne, List.append_nil]
  have hend : snapshotBytes (s.snaps ++ [s.snapshot]) s.out.length =
      snapshotBytes s.snaps s.out.length ++ Config.snapshotText s.snaps.length s.snapshot.toSnapshotLine := by
    rw [snapshotBytes_append, if_pos (show s.snapshot.outPos = s.out.length from rfl)]
  simp only [State.streamBytes, State.renderSnapshot_out, State.renderSnapshot_snaps, hh, Bool.false_eq_true, if_false]
  rw [List.flatMap_congr hwords, hend, List.append_assoc]

/-- A Word put out adds its bytes at the end of the stream, if no snapshot line stands behind it. -/
theorem State.streamBytes_emit (hsnaps : ∀ n ∈ s.snaps, n.outPos ≤ s.out.length) (v : Word) :
    (s.emit v).streamBytes = s.streamBytes ++ outEncode s.out.length v := by
  have hend : snapshotBytes s.snaps (s.out.length + 1) = [] :=
    snapshotBytes_of_lt fun n hn => Nat.lt_succ_of_le (hsnaps n hn)
  simp [State.streamBytes, List.zipIdx_append, hend]

/-- Settles O58: `streamBytes_renderSnapshot`, `renderSnapshot_of_hold` and `streamBytes_emit`. -/
theorem streamInterleavesSnapshots : Obligations.StreamInterleavesSnapshots := by
  unfold Obligations.StreamInterleavesSnapshots
  exact fun s hsnaps => ⟨State.streamBytes_renderSnapshot, State.renderSnapshot_of_hold, State.streamBytes_emit hsnaps⟩

end Sys2Proof.Machine
end

section
/-! PROOFS. The assembler on the tokens of instructions (30_encoding R85, R102, R110). -/

namespace Sys2Proof.Toolchain

variable {t : Token} {rest : List Token}

/-- An instruction token where no argument is expected. -/
theorem assembleTokens_instruction {i : Instr} (hk : t.kind = .instruction i) :
    assembleTokens false (t :: rest) = (assembleTokens i.needsArg rest).map (t.value :: ·) := by
  simp [assembleTokens, hk]

/-- An instruction token where an argument is expected. -/
theorem assembleTokens_instruction_unexpected {i : Instr} (hk : t.kind = .instruction i) :
    assembleTokens true (t :: rest) = .error (.unexpectedInstruction t.raw t.line) := by
  simp [assembleTokens, hk]

/-- A number literal, expected or not. -/
theorem assembleTokens_numberLiteral (hk : t.kind = .numberLiteral) (b : Bool) :
    assembleTokens b (t :: rest) = (assembleTokens false rest).map (t.value :: ·) := by
  simp [assembleTokens, hk]

/-- NEEDS_ARG asks for an argument only where there is an operand word. -/
theorem takesOperand_of_needsArg {i : Instr} (h : i.needsArg = true) : i.takesOperand = true := by
  revert h
  cases i <;> decide

/-- The tokens of a well-formed instruction are accepted where no argument is expected, emit its encoding, and leave none expected. -/
theorem assembleTokens_codeTokens (c : Config) (line : Nat) {k : Code} (hk : k.Wf) {p : Program}
    (h : assembleTokens false rest = .ok p) :
    assembleTokens false (codeTokens c line k ++ rest) = .ok (c.encode k ++ p) := by
  obtain ⟨i, _ | w⟩ := k
  · have hneeds : i.needsArg = false := Bool.eq_false_iff.mpr fun hn => by
      cases hk.trans (takesOperand_of_needsArg hn)
    have hop := assembleTokens_instruction (t := ⟨.instruction i, c.opval.value i, mnemonic i, line⟩) (rest := rest) rfl
    rw [hneeds, h] at hop
    exact hop
  · have hlit := assembleTokens_numberLiteral (t := ⟨.numberLiteral, w, Nat.toDigits 10 w.toNat, line⟩) (rest := rest) rfl i.needsArg
    rw [h] at hlit
    exact (assembleTokens_instruction rfl).trans (congrArg (Except.map (c.opval.value i :: ·)) hlit)

/-- Settles O54, by induction on the instructions: each is `assembleTokens_codeTokens` before the rest. -/
theorem assemblerWritesEncodings : Obligations.AssemblerWritesEncodings := by
  unfold Obligations.AssemblerWritesEncodings
  intro c line ks
  induction ks with
  | nil => exact fun _ => rfl
  | cons k ks ih =>
    intro hwf
    obtain ⟨hk, hks⟩ := List.forall_mem_cons.mp hwf
    exact assembleTokens_codeTokens c line hk (ih hks)

/-- Settles O55: the first instruction leaves an argument expected or not, as NEEDS_ARG says, and the second is taken accordingly. -/
theorem assemblerChecksNeedsArg : Obligations.AssemblerChecksNeedsArg := by
  unfold Obligations.AssemblerChecksNeedsArg
  intro t u i j rest p ht hu h
  rw [assembleTokens_instruction ht]
  simp only [← Machine.needsArg_iff]
  cases i.needsArg with
  | true => rw [assembleTokens_instruction_unexpected hu]; rfl
  | false => rw [assembleTokens_instruction hu, h]; rfl

end Sys2Proof.Toolchain
end

section
/-! PROOFS. The lexer on one word (30_encoding R101, R103 to R109). -/

namespace Sys2Proof.Toolchain

variable {c : Config} {s : LexState}

/-- A character that only adds to a lexeme: no separator, no slash, no quote (R104, R105). -/
def isPlain (ch : Char) : Bool := !isSeparator ch && ch ≠ '/' && ch ≠ '\''

/-- A plain character is none of those that end a lexeme or open another kind of it. -/
theorem isPlain_iff {ch : Char} : isPlain ch = true ↔ isSeparator ch = false ∧ ch ≠ '/' ∧ ch ≠ '\'' := by
  simp [isPlain, and_assoc]

/-- Within a token a plain character is accumulated. -/
theorem inTokenStep_of_isPlain {ch : Char} (h : isPlain ch = true) :
    s.inTokenStep c ch = .ok { s.accumulate ch with mode := .inToken } := by
  obtain ⟨hsep, hslash, hquote⟩ := isPlain_iff.mp h
  rw [LexState.inTokenStep, if_neg hslash, hsep, if_neg hquote]
  rfl

/-- Within a token plain characters to the end of the text are the rest of its lexeme. -/
theorem lexFrom_inToken (w : List Char) (hs : s.mode = .inToken) (hw : ∀ ch ∈ w, isPlain ch = true) :
    lexFrom c s w = lexEnd c { s with text := w.reverse ++ s.text } := by
  induction w generalizing s with
  | nil => rfl
  | cons ch w ih =>
    obtain ⟨hch, hw⟩ := List.forall_mem_cons.mp hw
    have hstep : lexStep c s ch = .ok { s.accumulate ch with mode := .inToken } := by
      simp [lexStep, hs, inTokenStep_of_isPlain hch]
    simp only [lexFrom, hstep]
    rw [ih rfl hw]
    simp [LexState.accumulate, hs]

/-- A text of plain characters is one lexeme on line 1. -/
theorem tokenize_of_isPlain {w : List Char} (hne : w ≠ []) (hw : ∀ ch ∈ w, isPlain ch = true) :
    tokenize c w = (classify c w 1 1).map ([·]) := by
  obtain ⟨ch, w, rfl⟩ := List.exists_cons_of_ne_nil hne
  obtain ⟨hch, hw⟩ := List.forall_mem_cons.mp hw
  have hstep : lexStep c LexState.initial ch = .ok ⟨.inToken, 1, 1, [ch], []⟩ := by
    obtain ⟨hsep, -⟩ := isPlain_iff.mp hch
    simp [lexStep, LexState.initial, hsep, inTokenStep_of_isPlain hch, LexState.accumulate]
  simp only [tokenize, lexFrom, hstep]
  rw [lexFrom_inToken w rfl hw]
  cases hcl : classify c (ch :: w) 1 1 <;> simp [lexEnd, LexState.emit, hcl, Except.map]

/-- A lexeme of plain characters is no comment. -/
theorem isComment_of_isPlain {w : List Char} (hw : ∀ ch ∈ w, isPlain ch = true) : isComment w = false := by
  cases w with
  | nil => rfl
  | cons ch w =>
    obtain ⟨-, hslash, -⟩ := isPlain_iff.mp (hw ch List.mem_cons_self)
    simp [isComment, List.isPrefixOf, Ne.symm hslash]

/-- A word of plain characters that is in the mnemonic table is one instruction token. -/
theorem tokenize_of_lookupMnemonic {w : List Char} {i : Instr} (hw : ∀ ch ∈ w, isPlain ch = true) (h : lookupMnemonic w = some i) :
    tokenize c w = .ok [⟨.instruction i, c.opval.value i, w, 1⟩] := by
  have hne : w ≠ [] := by
    rintro rfl
    cases h
  rw [tokenize_of_isPlain hne hw]
  simp [classify, isComment_of_isPlain hw, h, Except.map]

/-- No two instructions have the same mnemonic. -/
theorem mnemonic_injective : Function.Injective mnemonic := fun i j h =>
  List.inj_on_of_nodup_map (l := Instr.all) (by decide) (Instr.mem_all i) (Instr.mem_all j) h

/-- A word that is a mnemonic when written in capitals is looked up as its instruction (30_encoding R108). -/
theorem lookupMnemonic_of_map_toUpper {w : List Char} {i : Instr} (h : w.map Char.toUpper = mnemonic i) : lookupMnemonic w = some i := by
  cases hl : lookupMnemonic w with
  | none => simpa [h] using List.find?_eq_none.mp hl i (Instr.mem_all i)
  | some j =>
    have hj : mnemonic j = mnemonic i :=
      (beq_iff_eq.mp (List.find?_some (p := fun j => mnemonic j == w.map Char.toUpper) hl)).trans h
    exact congrArg some (mnemonic_injective hj)

/-- Settles O56: the letters of a mnemonic are plain in either case, and in capitals they are the mnemonic again. -/
theorem lexerReadsEveryMnemonic : Obligations.LexerReadsEveryMnemonic := by
  unfold Obligations.LexerReadsEveryMnemonic
  refine fun c i => ⟨tokenize_of_lookupMnemonic (List.all_eq_true.mp ?_) (lookupMnemonic_of_map_toUpper ?_),
    tokenize_of_lookupMnemonic (List.all_eq_true.mp ?_) (lookupMnemonic_of_map_toUpper ?_)⟩
  all_goals
    cases i <;> rfl

end Sys2Proof.Toolchain
end
